-- ==== Sys2Proof/Word.lean ====
section
/-! DEFINITION. The widths of the sound core's data: bytes, registers, samples, port addresses and command words. -/

namespace Sys2Proof

/-- One byte: what a READ returns, what a WRITE carries, one cell of voice memory (R51, R90). -/
abbrev Byte := BitVec 8

/-- A 16-bit register (R21). -/
abbrev Reg16 := BitVec 16

/-- A 32-bit register: `adsrCfg`, `kon`, `koff`, `chrvb` (R21). -/
abbrev Reg32 := BitVec 32

/-- A signed 16-bit sample, held as its two's-complement word; its value is `BitVec.toInt` (R34, R35, R52). -/
abbrev Sample := BitVec 16

/-- A port address, 32 bits unsigned (R90). -/
abbrev PortAddr := BitVec 32

/-- A host command word, 43 bits (R90). -/
abbrev Command := BitVec 43

/-- The contents of one block: 16 bytes, in increasing address order (R72, R74). -/
abbrev Block := Vector Byte 16

/-- The decoder history: the two most recently decoded samples (R35). -/
abbrev History := Sample × Sample

end Sys2Proof
end

