-- ==== Sys2Proof/Config.lean ====
section
/-! DEFINITION. The implementation parameters of rule R7: the fixed numbers, the OPEN parameters as opaque constants
(nothing can be proved of their values), and the record through which every operation takes them. -/

namespace Sys2Proof.Config

/-- `NVOICE` (R7). -/
abbrev voiceCount : Nat := 24

/-- `VOICE_MEM_BYTES` (R7, decision D5). -/
abbrev voiceMemBytes : Nat := 0x80000

/-- `BLOCK_SAMPLES` (R7). -/
abbrev blockSamples : Nat := 28

/-- `ADDR_UNIT`: voice cursors and the staging address count in units of this many bytes (R7, R71). -/
abbrev addrUnit : Nat := 8

/-- `BLOCK_STRIDE`: address units from one block to the next (R7). -/
abbrev blockStride : Nat := 2

/-- `RATE_UNITY` (R7). -/
abbrev rateUnity : Nat := 0x1000

/-- `SUBPOS_LIMIT = BLOCK_SAMPLES * 4096` (R8). -/
abbrev subPosLimit : Nat := 0x1C000

/-- OPEN: one less than the number of frames the output buffer holds (R7 `OUT_CAP`, decision D12). Log entry 4. -/
opaque outFrames : Nat

/-- OPEN: the ADPCM block decoder, a total pure function (R13, decision D27). Log entry 5. -/
opaque decode : Block → History → Vector Sample blockSamples × History

/-- OPEN: the voice-memory contents after reset, a byte for each address (R56, R87, decision D25). Log entry 6. -/
opaque memInit : Nat → Byte

/-- FREE VALUE: the sample emitted at a position outside the block, in a state that breaks the invariant of R57; the spec
gives none, and no run from reset comes to one. Log entry 7. -/
opaque sampleBeyondBlock : BitVec 17 → Sample

/-- The parameters of rule R7 that the operations of the model take as an argument. -/
structure Params where
  /-- One less than the number of frames in the output buffer. -/
  outFrames : Nat
  /-- `Decode` (R13). -/
  decode : Block → History → Vector Sample blockSamples × History
  /-- `MEM_INIT` (R56). -/
  memInit : Nat → Byte
  /-- `VolumeGain` (R241). -/
  volumeGain : Reg16 → Int
  /-- `STATUS_MIRROR_MASK` (R47). -/
  mirrorMask : Reg16
  /-- `IDLE_TICK_CLEARS_CACHE` (R202). -/
  idleTickClearsCache : Bool

/-- `OUT_CAP`, the number of 16-bit slots: every even integer from 2 on is this for one `outFrames` (R7). -/
def Params.outCap (P : Params) : Nat := 2 * (P.outFrames + 1)

end Sys2Proof.Config
end

