-- ==== Sys2Proof/Syntax.lean ====
section
/-! DEFINITION. The instructions: one constructor for each mnemonic of spec/opcode_table.json (a mnemonic with two
rows of match and mask, one for each aligned part of its address range, is one instruction, R99; log entry 10). The
fields a command ignores are no operands (R90); `v` is the voice index, `k` the byte index, `b` the byte written
(R94). -/

namespace Sys2Proof

/-- A host operation, decoded (R90, R92). -/
inductive Instr where
  /-- RD.VOLL: read byte k of voice v's left volume (R123). -/
  | rdVoll (v : Fin 24) (k : Fin 2)
  /-- WR.VOLL: write byte k of voice v's left volume (R124). -/
  | wrVoll (v : Fin 24) (k : Fin 2) (b : Byte)
  /-- RD.VOLR: read byte k of voice v's right volume (R125). -/
  | rdVolr (v : Fin 24) (k : Fin 2)
  /-- WR.VOLR: write byte k of voice v's right volume (R126). -/
  | wrVolr (v : Fin 24) (k : Fin 2) (b : Byte)
  /-- RD.RATE: read byte k of voice v's sample rate (R127). -/
  | rdRate (v : Fin 24) (k : Fin 2)
  /-- WR.RATE: write byte k of voice v's sample rate (R128). -/
  | wrRate (v : Fin 24) (k : Fin 2) (b : Byte)
  /-- RD.START: read byte k of voice v's start address (R129). -/
  | rdStart (v : Fin 24) (k : Fin 2)
  /-- WR.START: write byte k of voice v's start address (R130). -/
  | wrStart (v : Fin 24) (k : Fin 2) (b : Byte)
  /-- RD.ADSRCFG: read byte k of voice v's ADSR configuration (R131). -/
  | rdAdsrcfg (v : Fin 24) (k : Fin 4)
  /-- WR.ADSRCFG: write byte k of voice v's ADSR configuration (R132). -/
  | wrAdsrcfg (v : Fin 24) (k : Fin 4) (b : Byte)
  /-- RD.ADSRVOL: read byte k of voice v's ADSR current volume (R133). -/
  | rdAdsrvol (v : Fin 24) (k : Fin 2)
  /-- WR.ADSRVOL: write byte k of voice v's ADSR current volume (R134). -/
  | wrAdsrvol (v : Fin 24) (k : Fin 2) (b : Byte)
  /-- RD.REPEAT: read byte k of voice v's repeat address (R135). -/
  | rdRepeat (v : Fin 24) (k : Fin 2)
  /-- WR.REPEAT: write byte k of voice v's repeat address (R136). -/
  | wrRepeat (v : Fin 24) (k : Fin 2) (b : Byte)
  /-- RD.MVOLL: read byte k of the main volume left (R137). -/
  | rdMvoll (k : Fin 2)
  /-- WR.MVOLL: write byte k of the main volume left (R138). -/
  | wrMvoll (k : Fin 2) (b : Byte)
  /-- RD.MVOLR: read byte k of the main volume right (R139). -/
  | rdMvolr (k : Fin 2)
  /-- WR.MVOLR: write byte k of the main volume right (R140). -/
  | wrMvolr (k : Fin 2) (b : Byte)
  /-- RD.RVOLL: read byte k of the reverb volume left (R141). -/
  | rdRvoll (k : Fin 2)
  /-- WR.RVOLL: write byte k of the reverb volume left (R142). -/
  | wrRvoll (k : Fin 2) (b : Byte)
  /-- RD.RVOLR: read byte k of the reverb volume right (R143). -/
  | rdRvolr (k : Fin 2)
  /-- WR.RVOLR: write byte k of the reverb volume right (R144). -/
  | wrRvolr (k : Fin 2) (b : Byte)
  /-- RD.CHRVB: read byte k of the channel-reverb-mode mask (R145). -/
  | rdChrvb (k : Fin 4)
  /-- WR.CHRVB: write byte k of the channel-reverb-mode mask (R146). -/
  | wrChrvb (k : Fin 4) (b : Byte)
  /-- RD.CDVOLL: read byte k of the CD volume left (R147). -/
  | rdCdvoll (k : Fin 2)
  /-- WR.CDVOLL: write byte k of the CD volume left (R148). -/
  | wrCdvoll (k : Fin 2) (b : Byte)
  /-- RD.CDVOLR: read byte k of the CD volume right (R149). -/
  | rdCdvolr (k : Fin 2)
  /-- WR.CDVOLR: write byte k of the CD volume right (R150). -/
  | wrCdvolr (k : Fin 2) (b : Byte)
  /-- RD.UNMAPPED: read an address no register decodes (R151). -/
  | rdUnmapped (a : PortAddr)
  /-- WR.UNMAPPED: write an address no register decodes (R152). -/
  | wrUnmapped (a : PortAddr) (b : Byte)
  /-- RD.KON: read byte k of the key-on mask (R161). -/
  | rdKon (k : Fin 4)
  /-- WR.KON: write byte 0, 1 or 2 of the key-on mask (R162). -/
  | wrKon (k : Fin 3) (b : Byte)
  /-- WR.KON.COMMIT: write byte 3 of the key-on mask and commit it (R163). -/
  | wrKonCommit (b : Byte)
  /-- RD.KOFF: read byte k of the key-off mask (R164). -/
  | rdKoff (k : Fin 4)
  /-- WR.KOFF: write byte 0, 1 or 2 of the key-off mask (R165). -/
  | wrKoff (k : Fin 3) (b : Byte)
  /-- WR.KOFF.COMMIT: write byte 3 of the key-off mask and commit it (R166). -/
  | wrKoffCommit (b : Byte)
  /-- RD.IRQA: read byte k of the IRQ address (R181). -/
  | rdIrqa (k : Fin 2)
  /-- WR.IRQA: write byte k of the IRQ address (R182). -/
  | wrIrqa (k : Fin 2) (b : Byte)
  /-- RD.STGA: read byte k of the staging address (R183). -/
  | rdStga (k : Fin 2)
  /-- WR.STGA: write byte k of the staging address (R184). -/
  | wrStga (k : Fin 2) (b : Byte)
  /-- RD.FIFO: read the staging FIFO at either of its two addresses (R185). -/
  | rdFifo (k : Fin 2)
  /-- WR.FIFO: write a byte into voice memory through the staging FIFO, at either of its two addresses (R186). -/
  | wrFifo (k : Fin 2) (b : Byte)
  /-- RD.CTRL: read byte k of the control word (R187). -/
  | rdCtrl (k : Fin 2)
  /-- WR.CTRL: write byte k of the control word (R188). -/
  | wrCtrl (k : Fin 2) (b : Byte)
  /-- RD.XFER: read byte k of the transfer-control word (R189). -/
  | rdXfer (k : Fin 2)
  /-- WR.XFER: write byte k of the transfer-control word (R190). -/
  | wrXfer (k : Fin 2) (b : Byte)
  /-- RD.STAT: read byte k of the status word (R194). -/
  | rdStat (k : Fin 2)
  /-- WR.STAT: write byte k of the status word (R195). -/
  | wrStat (k : Fin 2) (b : Byte)
  /-- STEP: advance the core by one output-sample tick (R200). -/
  | step
  /-- ACK: acknowledge that the output buffer was consumed (R253). -/
  | ack
  /-- RESET: put the core into its reset state (R290). -/
  | reset
  /-- RESERVED: a word whose op is 5, 6 or 7 and names no operation (R95). -/
  | reserved (op : BitVec 3)
deriving DecidableEq, Repr

/-- The mnemonic of an instruction, as spec/opcode_table.json spells it (R92). -/
def Instr.mnemonic (i : Instr) : String :=
  match i with
  | .rdVoll _ _ => "RD.VOLL"
  | .wrVoll _ _ _ => "WR.VOLL"
  | .rdVolr _ _ => "RD.VOLR"
  | .wrVolr _ _ _ => "WR.VOLR"
  | .rdRate _ _ => "RD.RATE"
  | .wrRate _ _ _ => "WR.RATE"
  | .rdStart _ _ => "RD.START"
  | .wrStart _ _ _ => "WR.START"
  | .rdAdsrcfg _ _ => "RD.ADSRCFG"
  | .wrAdsrcfg _ _ _ => "WR.ADSRCFG"
  | .rdAdsrvol _ _ => "RD.ADSRVOL"
  | .wrAdsrvol _ _ _ => "WR.ADSRVOL"
  | .rdRepeat _ _ => "RD.REPEAT"
  | .wrRepeat _ _ _ => "WR.REPEAT"
  | .rdMvoll _ => "RD.MVOLL"
  | .wrMvoll _ _ => "WR.MVOLL"
  | .rdMvolr _ => "RD.MVOLR"
  | .wrMvolr _ _ => "WR.MVOLR"
  | .rdRvoll _ => "RD.RVOLL"
  | .wrRvoll _ _ => "WR.RVOLL"
  | .rdRvolr _ => "RD.RVOLR"
  | .wrRvolr _ _ => "WR.RVOLR"
  | .rdChrvb _ => "RD.CHRVB"
  | .wrChrvb _ _ => "WR.CHRVB"
  | .rdCdvoll _ => "RD.CDVOLL"
  | .wrCdvoll _ _ => "WR.CDVOLL"
  | .rdCdvolr _ => "RD.CDVOLR"
  | .wrCdvolr _ _ => "WR.CDVOLR"
  | .rdUnmapped _ => "RD.UNMAPPED"
  | .wrUnmapped _ _ => "WR.UNMAPPED"
  | .rdKon _ => "RD.KON"
  | .wrKon _ _ => "WR.KON"
  | .wrKonCommit _ => "WR.KON.COMMIT"
  | .rdKoff _ => "RD.KOFF"
  | .wrKoff _ _ => "WR.KOFF"
  | .wrKoffCommit _ => "WR.KOFF.COMMIT"
  | .rdIrqa _ => "RD.IRQA"
  | .wrIrqa _ _ => "WR.IRQA"
  | .rdStga _ => "RD.STGA"
  | .wrStga _ _ => "WR.STGA"
  | .rdFifo _ => "RD.FIFO"
  | .wrFifo _ _ => "WR.FIFO"
  | .rdCtrl _ => "RD.CTRL"
  | .wrCtrl _ _ => "WR.CTRL"
  | .rdXfer _ => "RD.XFER"
  | .wrXfer _ _ => "WR.XFER"
  | .rdStat _ => "RD.STAT"
  | .wrStat _ _ => "WR.STAT"
  | .step => "STEP"
  | .ack => "ACK"
  | .reset => "RESET"
  | .reserved _ => "RESERVED"

end Sys2Proof
end

