-- ==== Sys2Proof/WellFormed.lean ====
section
/-! DEFINITION. When an instruction is well formed: the checks its operand types do not already make. -/

namespace Sys2Proof

/-- The mapped port addresses: 0x1C00 to 0x1D8F, 0x1D98 to 0x1D9B and 0x1DA4 to 0x1DB3 (R70). -/
def mappedAddress (a : PortAddr) : Bool :=
  (0x1C00 ≤ a.toNat && a.toNat ≤ 0x1D8F) || (0x1D98 ≤ a.toNat && a.toNat ≤ 0x1D9B) ||
    (0x1DA4 ≤ a.toNat && a.toNat ≤ 0x1DB3)

/-- The op values that name no operation: 5, 6 and 7 (R95). -/
def reservedOp (op : BitVec 3) : Bool := 5 ≤ op.toNat

/-- Voice and byte indices are in range by their types (R93, R272); an UNMAPPED access names an unmapped address (R92
row 25), a RESERVED command has a reserved op (R95). -/
def Instr.wellFormed (i : Instr) : Bool :=
  match i with
  | .rdVoll _ _ => true
  | .wrVoll _ _ _ => true
  | .rdVolr _ _ => true
  | .wrVolr _ _ _ => true
  | .rdRate _ _ => true
  | .wrRate _ _ _ => true
  | .rdStart _ _ => true
  | .wrStart _ _ _ => true
  | .rdAdsrcfg _ _ => true
  | .wrAdsrcfg _ _ _ => true
  | .rdAdsrvol _ _ => true
  | .wrAdsrvol _ _ _ => true
  | .rdRepeat _ _ => true
  | .wrRepeat _ _ _ => true
  | .rdMvoll _ => true
  | .wrMvoll _ _ => true
  | .rdMvolr _ => true
  | .wrMvolr _ _ => true
  | .rdRvoll _ => true
  | .wrRvoll _ _ => true
  | .rdRvolr _ => true
  | .wrRvolr _ _ => true
  | .rdChrvb _ => true
  | .wrChrvb _ _ => true
  | .rdCdvoll _ => true
  | .wrCdvoll _ _ => true
  | .rdCdvolr _ => true
  | .wrCdvolr _ _ => true
  | .rdUnmapped a => !mappedAddress a
  | .wrUnmapped a _ => !mappedAddress a
  | .rdKon _ => true
  | .wrKon _ _ => true
  | .wrKonCommit _ => true
  | .rdKoff _ => true
  | .wrKoff _ _ => true
  | .wrKoffCommit _ => true
  | .rdIrqa _ => true
  | .wrIrqa _ _ => true
  | .rdStga _ => true
  | .wrStga _ _ => true
  | .rdFifo _ => true
  | .wrFifo _ _ => true
  | .rdCtrl _ => true
  | .wrCtrl _ _ => true
  | .rdXfer _ => true
  | .wrXfer _ _ => true
  | .rdStat _ => true
  | .wrStat _ _ => true
  | .step => true
  | .ack => true
  | .reset => true
  | .reserved op => reservedOp op

/-- An instruction that a command word can carry. -/
abbrev Instr.WellFormed (i : Instr) : Prop := i.wellFormed = true

end Sys2Proof
end

