-- ==== Sys2Proof/Decode.lean ====
section
/-! DEFINITION. Decoding a command word into an instruction and encoding an instruction into its command word
(30_encoding.md), the opcode table as rows of match and mask, and the raw numbers the host of the model hands over. -/

namespace Sys2Proof

/-! ## The fields of a command word (R90) -/

/-- `op`, bits [42:40] (R90). -/
def opField (w : Command) : BitVec 3 := w.extractLsb' 40 3

/-- `addr`, bits [39:8] (R90). -/
def addrField (w : Command) : PortAddr := w.extractLsb' 8 32

/-- `data`, bits [7:0] (R90). -/
def dataField (w : Command) : Byte := w.extractLsb' 0 8

/-- The command word of an op, an address and a data byte (R90). -/
def commandWord (op : BitVec 3) (addr : PortAddr) (data : Byte) : Command := op ++ addr ++ data

/-- `WINDOW_BIAS` (R7, R91, decision D1). -/
def windowBias : PortAddr := 0

/-- The port address `A = (addr + WINDOW_BIAS) mod 2^32` (R91). -/
def portAddress (addr : PortAddr) : PortAddr := addr + windowBias

/-! ## The address decode map (R92) -/

/-- What a port address names: one constructor for each row of R92. -/
inductive Port where
  | volL (v : Fin 24) (k : Fin 2)
  | volR (v : Fin 24) (k : Fin 2)
  | rate (v : Fin 24) (k : Fin 2)
  | start (v : Fin 24) (k : Fin 2)
  | adsrCfg (v : Fin 24) (k : Fin 4)
  | adsrVol (v : Fin 24) (k : Fin 2)
  | repeatAddr (v : Fin 24) (k : Fin 2)
  | mvolL (k : Fin 2)
  | mvolR (k : Fin 2)
  | rvolL (k : Fin 2)
  | rvolR (k : Fin 2)
  | kon (k : Fin 3)
  | konHigh
  | koff (k : Fin 3)
  | koffHigh
  | chrvb (k : Fin 4)
  | irqa (k : Fin 2)
  | stga (k : Fin 2)
  | fifo (k : Fin 2)
  | ctrl (k : Fin 2)
  | xfer (k : Fin 2)
  | stat (k : Fin 2)
  | cdvolL (k : Fin 2)
  | cdvolR (k : Fin 2)
  | unmapped (a : PortAddr)
deriving DecidableEq, Repr

/-- Rows 1 to 7: byte r of voice v's block of 16 (R92, R122). -/
def voicePort (v : Fin 24) (r : Fin 16) : Port :=
  if h0 : r.val < 2 then .volL v ⟨r.val, by omega⟩
  else if h2 : r.val < 4 then .volR v ⟨r.val - 2, by omega⟩
  else if h4 : r.val < 6 then .rate v ⟨r.val - 4, by omega⟩
  else if h6 : r.val < 8 then .start v ⟨r.val - 6, by omega⟩
  else if h8 : r.val < 12 then .adsrCfg v ⟨r.val - 8, by omega⟩
  else if h12 : r.val < 14 then .adsrVol v ⟨r.val - 12, by omega⟩
  else .repeatAddr v ⟨r.val - 14, by omega⟩

/-- The decode map: the first row of R92 that port address `a` matches. -/
def decodePort (a : PortAddr) : Port :=
  if hv : 0x1C00 ≤ a.toNat ∧ a.toNat < 0x1D80 then
    voicePort ⟨(a.toNat - 0x1C00) / 16, by omega⟩ ⟨(a.toNat - 0x1C00) % 16, by omega⟩
  else if h : 0x1D80 ≤ a.toNat ∧ a.toNat < 0x1D82 then .mvolL ⟨a.toNat - 0x1D80, by omega⟩
  else if h : 0x1D82 ≤ a.toNat ∧ a.toNat < 0x1D84 then .mvolR ⟨a.toNat - 0x1D82, by omega⟩
  else if h : 0x1D84 ≤ a.toNat ∧ a.toNat < 0x1D86 then .rvolL ⟨a.toNat - 0x1D84, by omega⟩
  else if h : 0x1D86 ≤ a.toNat ∧ a.toNat < 0x1D88 then .rvolR ⟨a.toNat - 0x1D86, by omega⟩
  else if h : 0x1D88 ≤ a.toNat ∧ a.toNat < 0x1D8B then .kon ⟨a.toNat - 0x1D88, by omega⟩
  else if a.toNat = 0x1D8B then .konHigh
  else if h : 0x1D8C ≤ a.toNat ∧ a.toNat < 0x1D8F then .koff ⟨a.toNat - 0x1D8C, by omega⟩
  else if a.toNat = 0x1D8F then .koffHigh
  else if h : 0x1D98 ≤ a.toNat ∧ a.toNat < 0x1D9C then .chrvb ⟨a.toNat - 0x1D98, by omega⟩
  else if h : 0x1DA4 ≤ a.toNat ∧ a.toNat < 0x1DA6 then .irqa ⟨a.toNat - 0x1DA4, by omega⟩
  else if h : 0x1DA6 ≤ a.toNat ∧ a.toNat < 0x1DA8 then .stga ⟨a.toNat - 0x1DA6, by omega⟩
  else if h : 0x1DA8 ≤ a.toNat ∧ a.toNat < 0x1DAA then .fifo ⟨a.toNat - 0x1DA8, by omega⟩
  else if h : 0x1DAA ≤ a.toNat ∧ a.toNat < 0x1DAC then .ctrl ⟨a.toNat - 0x1DAA, by omega⟩
  else if h : 0x1DAC ≤ a.toNat ∧ a.toNat < 0x1DAE then .xfer ⟨a.toNat - 0x1DAC, by omega⟩
  else if h : 0x1DAE ≤ a.toNat ∧ a.toNat < 0x1DB0 then .stat ⟨a.toNat - 0x1DAE, by omega⟩
  else if h : 0x1DB0 ≤ a.toNat ∧ a.toNat < 0x1DB2 then .cdvolL ⟨a.toNat - 0x1DB0, by omega⟩
  else if h : 0x1DB2 ≤ a.toNat ∧ a.toNat < 0x1DB4 then .cdvolR ⟨a.toNat - 0x1DB2, by omega⟩
  else .unmapped a

/-- The READ of what a port address names (R92, column READ). -/
def Port.readInstr (p : Port) : Instr :=
  match p with
  | .volL v k => .rdVoll v k
  | .volR v k => .rdVolr v k
  | .rate v k => .rdRate v k
  | .start v k => .rdStart v k
  | .adsrCfg v k => .rdAdsrcfg v k
  | .adsrVol v k => .rdAdsrvol v k
  | .repeatAddr v k => .rdRepeat v k
  | .mvolL k => .rdMvoll k
  | .mvolR k => .rdMvolr k
  | .rvolL k => .rdRvoll k
  | .rvolR k => .rdRvolr k
  | .kon k => .rdKon ⟨k.val, by omega⟩
  | .konHigh => .rdKon 3
  | .koff k => .rdKoff ⟨k.val, by omega⟩
  | .koffHigh => .rdKoff 3
  | .chrvb k => .rdChrvb k
  | .irqa k => .rdIrqa k
  | .stga k => .rdStga k
  | .fifo k => .rdFifo k
  | .ctrl k => .rdCtrl k
  | .xfer k => .rdXfer k
  | .stat k => .rdStat k
  | .cdvolL k => .rdCdvoll k
  | .cdvolR k => .rdCdvolr k
  | .unmapped a => .rdUnmapped a

/-- The WRITE of byte b to what a port address names (R92, column WRITE): byte 3 of a key mask commits (rows 13, 15). -/
def Port.writeInstr (p : Port) (b : Byte) : Instr :=
  match p with
  | .volL v k => .wrVoll v k b
  | .volR v k => .wrVolr v k b
  | .rate v k => .wrRate v k b
  | .start v k => .wrStart v k b
  | .adsrCfg v k => .wrAdsrcfg v k b
  | .adsrVol v k => .wrAdsrvol v k b
  | .repeatAddr v k => .wrRepeat v k b
  | .mvolL k => .wrMvoll k b
  | .mvolR k => .wrMvolr k b
  | .rvolL k => .wrRvoll k b
  | .rvolR k => .wrRvolr k b
  | .kon k => .wrKon k b
  | .konHigh => .wrKonCommit b
  | .koff k => .wrKoff k b
  | .koffHigh => .wrKoffCommit b
  | .chrvb k => .wrChrvb k b
  | .irqa k => .wrIrqa k b
  | .stga k => .wrStga k b
  | .fifo k => .wrFifo k b
  | .ctrl k => .wrCtrl k b
  | .xfer k => .wrXfer k b
  | .stat k => .wrStat k b
  | .cdvolL k => .wrCdvoll k b
  | .cdvolR k => .wrCdvolr k b
  | .unmapped a => .wrUnmapped a b

/-! ## The decoder -/

/-- The instruction of a command word; every one of the 2^43 words has exactly one (R99). -/
def decodeWord (w : Command) : Instr :=
  match (opField w).toNat with
  | 0 => (decodePort (portAddress (addrField w))).readInstr
  | 1 => (decodePort (portAddress (addrField w))).writeInstr (dataField w)
  | 2 => .step
  | 3 => .ack
  | 4 => .reset
  | _ => .reserved (opField w)

/-! ## The encoder -/

/-- The port address of a voice's byte: `0x1C00 + 16*v` plus the offset in the block (R93). -/
def voiceAddress (v : Fin 24) (offset : Nat) : PortAddr := BitVec.ofNat 32 (0x1C00 + 16 * v.val + offset)

/-- The `addr` field that reaches a port address: `WINDOW_BIAS` taken off again (R91). -/
def busAddress (a : PortAddr) : PortAddr := a - windowBias

/-- The command word of a READ of port address a; the ignored data is 0 (R90, R100). -/
def readCommand (a : PortAddr) : Command := commandWord 0 (busAddress a) 0

/-- The command word of a WRITE of byte b to port address a (R90, R100). -/
def writeCommand (a : PortAddr) (b : Byte) : Command := commandWord 1 (busAddress a) b

/-- The command word of an instruction, with every ignored field 0 (R90, R92, R100). -/
def encode (i : Instr) : Command :=
  match i with
  | .rdVoll v k => readCommand (voiceAddress v k.val)
  | .wrVoll v k b => writeCommand (voiceAddress v k.val) b
  | .rdVolr v k => readCommand (voiceAddress v (2 + k.val))
  | .wrVolr v k b => writeCommand (voiceAddress v (2 + k.val)) b
  | .rdRate v k => readCommand (voiceAddress v (4 + k.val))
  | .wrRate v k b => writeCommand (voiceAddress v (4 + k.val)) b
  | .rdStart v k => readCommand (voiceAddress v (6 + k.val))
  | .wrStart v k b => writeCommand (voiceAddress v (6 + k.val)) b
  | .rdAdsrcfg v k => readCommand (voiceAddress v (8 + k.val))
  | .wrAdsrcfg v k b => writeCommand (voiceAddress v (8 + k.val)) b
  | .rdAdsrvol v k => readCommand (voiceAddress v (12 + k.val))
  | .wrAdsrvol v k b => writeCommand (voiceAddress v (12 + k.val)) b
  | .rdRepeat v k => readCommand (voiceAddress v (14 + k.val))
  | .wrRepeat v k b => writeCommand (voiceAddress v (14 + k.val)) b
  | .rdMvoll k => readCommand (BitVec.ofNat 32 (0x1D80 + k.val))
  | .wrMvoll k b => writeCommand (BitVec.ofNat 32 (0x1D80 + k.val)) b
  | .rdMvolr k => readCommand (BitVec.ofNat 32 (0x1D82 + k.val))
  | .wrMvolr k b => writeCommand (BitVec.ofNat 32 (0x1D82 + k.val)) b
  | .rdRvoll k => readCommand (BitVec.ofNat 32 (0x1D84 + k.val))
  | .wrRvoll k b => writeCommand (BitVec.ofNat 32 (0x1D84 + k.val)) b
  | .rdRvolr k => readCommand (BitVec.ofNat 32 (0x1D86 + k.val))
  | .wrRvolr k b => writeCommand (BitVec.ofNat 32 (0x1D86 + k.val)) b
  | .rdChrvb k => readCommand (BitVec.ofNat 32 (0x1D98 + k.val))
  | .wrChrvb k b => writeCommand (BitVec.ofNat 32 (0x1D98 + k.val)) b
  | .rdCdvoll k => readCommand (BitVec.ofNat 32 (0x1DB0 + k.val))
  | .wrCdvoll k b => writeCommand (BitVec.ofNat 32 (0x1DB0 + k.val)) b
  | .rdCdvolr k => readCommand (BitVec.ofNat 32 (0x1DB2 + k.val))
  | .wrCdvolr k b => writeCommand (BitVec.ofNat 32 (0x1DB2 + k.val)) b
  | .rdUnmapped a => readCommand a
  | .wrUnmapped a b => writeCommand a b
  | .rdKon k => readCommand (BitVec.ofNat 32 (0x1D88 + k.val))
  | .wrKon k b => writeCommand (BitVec.ofNat 32 (0x1D88 + k.val)) b
  | .wrKonCommit b => writeCommand 0x1D8B b
  | .rdKoff k => readCommand (BitVec.ofNat 32 (0x1D8C + k.val))
  | .wrKoff k b => writeCommand (BitVec.ofNat 32 (0x1D8C + k.val)) b
  | .wrKoffCommit b => writeCommand 0x1D8F b
  | .rdIrqa k => readCommand (BitVec.ofNat 32 (0x1DA4 + k.val))
  | .wrIrqa k b => writeCommand (BitVec.ofNat 32 (0x1DA4 + k.val)) b
  | .rdStga k => readCommand (BitVec.ofNat 32 (0x1DA6 + k.val))
  | .wrStga k b => writeCommand (BitVec.ofNat 32 (0x1DA6 + k.val)) b
  | .rdFifo k => readCommand (BitVec.ofNat 32 (0x1DA8 + k.val))
  | .wrFifo k b => writeCommand (BitVec.ofNat 32 (0x1DA8 + k.val)) b
  | .rdCtrl k => readCommand (BitVec.ofNat 32 (0x1DAA + k.val))
  | .wrCtrl k b => writeCommand (BitVec.ofNat 32 (0x1DAA + k.val)) b
  | .rdXfer k => readCommand (BitVec.ofNat 32 (0x1DAC + k.val))
  | .wrXfer k b => writeCommand (BitVec.ofNat 32 (0x1DAC + k.val)) b
  | .rdStat k => readCommand (BitVec.ofNat 32 (0x1DAE + k.val))
  | .wrStat k b => writeCommand (BitVec.ofNat 32 (0x1DAE + k.val)) b
  | .step => commandWord 2 0 0
  | .ack => commandWord 3 0 0
  | .reset => commandWord 4 0 0
  | .reserved op => commandWord op 0 0

/-! ## The opcode table as rows of match and mask (R99) -/

/-- One row of spec/opcode_table.json. -/
structure TableRow where
  /-- The row's mnemonic. -/
  mnemonic : String
  /-- The row's `match`. -/
  bits : Command
  /-- The row's `mask`. -/
  mask : Command
deriving DecidableEq, Repr

/-- A word matches a row when `(cmd AND mask) = match` (R99). -/
def TableRow.accepts (r : TableRow) (w : Command) : Bool := (w &&& r.mask) == r.bits

/-- The table's rows of the voice registers. -/
def voiceRows : List TableRow := [
  ⟨"RD.VOLL", 0x000001C0000, 0x7FFFFFF0E00⟩,
  ⟨"RD.VOLL", 0x000001D0000, 0x7FFFFFF8E00⟩,
  ⟨"WR.VOLL", 0x100001C0000, 0x7FFFFFF0E00⟩,
  ⟨"WR.VOLL", 0x100001D0000, 0x7FFFFFF8E00⟩,
  ⟨"RD.VOLR", 0x000001C0200, 0x7FFFFFF0E00⟩,
  ⟨"RD.VOLR", 0x000001D0200, 0x7FFFFFF8E00⟩,
  ⟨"WR.VOLR", 0x100001C0200, 0x7FFFFFF0E00⟩,
  ⟨"WR.VOLR", 0x100001D0200, 0x7FFFFFF8E00⟩,
  ⟨"RD.RATE", 0x000001C0400, 0x7FFFFFF0E00⟩,
  ⟨"RD.RATE", 0x000001D0400, 0x7FFFFFF8E00⟩,
  ⟨"WR.RATE", 0x100001C0400, 0x7FFFFFF0E00⟩,
  ⟨"WR.RATE", 0x100001D0400, 0x7FFFFFF8E00⟩,
  ⟨"RD.START", 0x000001C0600, 0x7FFFFFF0E00⟩,
  ⟨"RD.START", 0x000001D0600, 0x7FFFFFF8E00⟩,
  ⟨"WR.START", 0x100001C0600, 0x7FFFFFF0E00⟩,
  ⟨"WR.START", 0x100001D0600, 0x7FFFFFF8E00⟩,
  ⟨"RD.ADSRCFG", 0x000001C0800, 0x7FFFFFF0C00⟩,
  ⟨"RD.ADSRCFG", 0x000001D0800, 0x7FFFFFF8C00⟩,
  ⟨"WR.ADSRCFG", 0x100001C0800, 0x7FFFFFF0C00⟩,
  ⟨"WR.ADSRCFG", 0x100001D0800, 0x7FFFFFF8C00⟩,
  ⟨"RD.ADSRVOL", 0x000001C0C00, 0x7FFFFFF0E00⟩,
  ⟨"RD.ADSRVOL", 0x000001D0C00, 0x7FFFFFF8E00⟩,
  ⟨"WR.ADSRVOL", 0x100001C0C00, 0x7FFFFFF0E00⟩,
  ⟨"WR.ADSRVOL", 0x100001D0C00, 0x7FFFFFF8E00⟩,
  ⟨"RD.REPEAT", 0x000001C0E00, 0x7FFFFFF0E00⟩,
  ⟨"RD.REPEAT", 0x000001D0E00, 0x7FFFFFF8E00⟩,
  ⟨"WR.REPEAT", 0x100001C0E00, 0x7FFFFFF0E00⟩,
  ⟨"WR.REPEAT", 0x100001D0E00, 0x7FFFFFF8E00⟩]

/-- The table's rows of the global registers, the staging path, control and status. -/
def globalRows : List TableRow := [
  ⟨"RD.MVOLL", 0x000001D8000, 0x7FFFFFFFE00⟩,
  ⟨"WR.MVOLL", 0x100001D8000, 0x7FFFFFFFE00⟩,
  ⟨"RD.MVOLR", 0x000001D8200, 0x7FFFFFFFE00⟩,
  ⟨"WR.MVOLR", 0x100001D8200, 0x7FFFFFFFE00⟩,
  ⟨"RD.RVOLL", 0x000001D8400, 0x7FFFFFFFE00⟩,
  ⟨"WR.RVOLL", 0x100001D8400, 0x7FFFFFFFE00⟩,
  ⟨"RD.RVOLR", 0x000001D8600, 0x7FFFFFFFE00⟩,
  ⟨"WR.RVOLR", 0x100001D8600, 0x7FFFFFFFE00⟩,
  ⟨"RD.CHRVB", 0x000001D9800, 0x7FFFFFFFC00⟩,
  ⟨"WR.CHRVB", 0x100001D9800, 0x7FFFFFFFC00⟩,
  ⟨"RD.IRQA", 0x000001DA400, 0x7FFFFFFFE00⟩,
  ⟨"WR.IRQA", 0x100001DA400, 0x7FFFFFFFE00⟩,
  ⟨"RD.STGA", 0x000001DA600, 0x7FFFFFFFE00⟩,
  ⟨"WR.STGA", 0x100001DA600, 0x7FFFFFFFE00⟩,
  ⟨"RD.FIFO", 0x000001DA800, 0x7FFFFFFFE00⟩,
  ⟨"WR.FIFO", 0x100001DA800, 0x7FFFFFFFE00⟩,
  ⟨"RD.CTRL", 0x000001DAA00, 0x7FFFFFFFE00⟩,
  ⟨"WR.CTRL", 0x100001DAA00, 0x7FFFFFFFE00⟩,
  ⟨"RD.XFER", 0x000001DAC00, 0x7FFFFFFFE00⟩,
  ⟨"WR.XFER", 0x100001DAC00, 0x7FFFFFFFE00⟩,
  ⟨"RD.STAT", 0x000001DAE00, 0x7FFFFFFFE00⟩,
  ⟨"WR.STAT", 0x100001DAE00, 0x7FFFFFFFE00⟩,
  ⟨"RD.CDVOLL", 0x000001DB000, 0x7FFFFFFFE00⟩,
  ⟨"WR.CDVOLL", 0x100001DB000, 0x7FFFFFFFE00⟩,
  ⟨"RD.CDVOLR", 0x000001DB200, 0x7FFFFFFFE00⟩,
  ⟨"WR.CDVOLR", 0x100001DB200, 0x7FFFFFFFE00⟩]

/-- The table's rows of the key masks. -/
def keyRows : List TableRow := [
  ⟨"RD.KON", 0x000001D8800, 0x7FFFFFFFC00⟩,
  ⟨"WR.KON", 0x100001D8800, 0x7FFFFFFFE00⟩,
  ⟨"WR.KON", 0x100001D8A00, 0x7FFFFFFFF00⟩,
  ⟨"WR.KON.COMMIT", 0x100001D8B00, 0x7FFFFFFFF00⟩,
  ⟨"RD.KOFF", 0x000001D8C00, 0x7FFFFFFFC00⟩,
  ⟨"WR.KOFF", 0x100001D8C00, 0x7FFFFFFFE00⟩,
  ⟨"WR.KOFF", 0x100001D8E00, 0x7FFFFFFFF00⟩,
  ⟨"WR.KOFF.COMMIT", 0x100001D8F00, 0x7FFFFFFFF00⟩]

/-- The table's rows that match on `op` alone. -/
def restRows : List TableRow := [
  ⟨"RD.UNMAPPED", 0x00000000000, 0x70000000000⟩,
  ⟨"WR.UNMAPPED", 0x10000000000, 0x70000000000⟩,
  ⟨"STEP", 0x20000000000, 0x70000000000⟩,
  ⟨"ACK", 0x30000000000, 0x70000000000⟩,
  ⟨"RESET", 0x40000000000, 0x70000000000⟩,
  ⟨"RESERVED", 0x50000000000, 0x70000000000⟩,
  ⟨"RESERVED", 0x60000000000, 0x70000000000⟩,
  ⟨"RESERVED", 0x70000000000, 0x70000000000⟩]

/-- spec/opcode_table.json, in its order (R99). -/
def opcodeTable : List TableRow := voiceRows ++ globalRows ++ keyRows ++ restRows

/-- The mnemonic of the first row a word matches: decoding by the table alone (R99). -/
def tableMnemonic (w : Command) : Option String := (opcodeTable.find? (·.accepts w)).map (·.mnemonic)

/-! ## Raw numbers -/

/-- Why a raw number is no command word. -/
inductive DecodeError where
  /-- The number has a bit above bit 42: every command is one 43-bit word (R98). Safe: nothing is decoded. -/
  | widerThanCommand
deriving DecidableEq, Repr

/-- The command word among the low `nbits` bits of a raw number; bits above `nbits` are 0. Log entry 3. -/
def commandOfBits (nbits w : Nat) : Except DecodeError Command :=
  let n := w % 2 ^ nbits
  if n < 2 ^ 43 then .ok (BitVec.ofNat 43 n) else .error .widerThanCommand

/-- The instruction of a raw number: total, rejecting by name. -/
def decodeBits (nbits w : Nat) : Except DecodeError Instr :=
  match commandOfBits nbits w with
  | .ok c => .ok (decodeWord c)
  | .error e => .error e

/-- The instruction the decoder reads from a table row's bits. -/
def decodeTableWord (nbits w : Nat) : Option Instr :=
  match decodeBits nbits w with
  | .ok i => some i
  | .error _ => none

end Sys2Proof
end

