-- ==== Sys2Proof/Machine/Params.lean ====
section
/-! DEFINITION. The parameter values the machine runs with: the OPEN parameters as the opaque constants of Config, the
others at the values rule R7 fixes. -/

namespace Sys2Proof.Machine

open Sys2Proof.Config

/-- The default `VolumeGain`: the register read as a signed integer, in units of 2^-15 (R241, decision D9). -/
def gainQ15 (raw : Reg16) : Int := raw.toInt

/-- The default `STATUS_MIRROR_MASK` (R7, decision D16). -/
def statusMirrorMask : Reg16 := 0x003F

/-- The parameters of the machine (R7). Log entries 4, 5, 6 and 9. -/
def params : Params where
  outFrames := Config.outFrames
  decode := Config.decode
  memInit := Config.memInit
  volumeGain := gainQ15
  mirrorMask := statusMirrorMask
  idleTickClearsCache := false

/-- `OUT_CAP` of the machine (R7). -/
def outCap : Nat := params.outCap

end Sys2Proof.Machine
end

