-- ==== Sys2Proof/Machine/State.lean ====
section
/-! DEFINITION. The state of the sound core (10_state.md), its value after reset, and the ways a step can stop. -/

namespace Sys2Proof.Machine

open Sys2Proof.Config

/-- One voice: the bus-visible registers of R25 to R31, then the hidden state of R32 to R36. -/
structure Voice where
  /-- Left volume (R25). -/
  volL : Reg16
  /-- Right volume (R26). -/
  volR : Reg16
  /-- Sample rate, 12 fraction bits (R27). -/
  rate : Reg16
  /-- Start address, in 8-byte units (R28). -/
  start : Reg16
  /-- ADSR configuration, stored only (R29). -/
  adsrCfg : Reg32
  /-- ADSR current volume (R30). -/
  adsrVol : Reg16
  /-- The spec's `repeat`: repeat (loop) address, in 8-byte units (R31). -/
  repeatAddr : Reg16
  /-- Current address, in 8-byte units (R32). -/
  cur : Reg16
  /-- Position in the current block, in 1/4096 sample (R33). -/
  subPos : BitVec 17
  /-- Whether the decode cache holds a decoded block (R34). -/
  cacheValid : Bool
  /-- The decode cache (R34). -/
  cache : Vector Sample blockSamples
  /-- The decoder history (R35). -/
  hist : History
  /-- true is `Playing`, false is `Idle` (R36). -/
  playing : Bool
deriving DecidableEq, Repr

/-- Voice memory: the bytes that differ from `MEM_INIT`, addresses strictly rising (R51, R87). `Memory.wf` says so. -/
abbrev Memory := List Host.Cell

/-- The state of the core (R20), and the model's own two fields at the end. -/
structure State where
  /-- The voice records `V[0..23]` (R20). -/
  voices : Vector Voice voiceCount
  /-- Main volume left (R37). -/
  mvolL : Reg16
  /-- Main volume right (R38). -/
  mvolR : Reg16
  /-- Reverb volume left, stored only (R39). -/
  rvolL : Reg16
  /-- Reverb volume right, stored only (R39). -/
  rvolR : Reg16
  /-- Key-on mask (R40). -/
  kon : Reg32
  /-- Key-off mask (R41). -/
  koff : Reg32
  /-- Channel reverb mode, stored only (R42). -/
  chrvb : Reg32
  /-- IRQ address, stored only (R43). -/
  irqa : Reg16
  /-- Staging address, in 8-byte units (R44). -/
  stga : Reg16
  /-- Control word (R45). -/
  ctrl : Reg16
  /-- Transfer-control word, stored only (R46). -/
  xfer : Reg16
  /-- Status word (R47). -/
  stat : Reg16
  /-- CD volume left, stored only (R48). -/
  cdvolL : Reg16
  /-- CD volume right, stored only (R48). -/
  cdvolR : Reg16
  /-- External-input volume left, which no port address reaches (R49). -/
  extvolL : Reg16
  /-- External-input volume right, which no port address reaches (R49). -/
  extvolR : Reg16
  /-- Staging cursor, a byte index into voice memory (R50). -/
  scur : BitVec 19
  /-- Voice memory (R51). -/
  mem : Memory
  /-- The output buffer, `OUT_CAP` slots (R52). -/
  out : List Sample
  /-- The output write index (R53). -/
  wp : Nat
  /-- The buffer-ready flag (R54). -/
  ready : Bool
  /-- THE MODEL'S OWN: the byte the last command returned, if it was a READ (R90). Log entry 2. -/
  rdata : Option Byte
  /-- THE MODEL'S OWN: the command words issued by the host and not yet taken, oldest first (R24). Log entry 1. -/
  pending : List Command
deriving DecidableEq, Repr

/-- The core raises no exception, fault or error on any operation (R270): there is no way to fault. -/
inductive Fault where
deriving DecidableEq, Repr

/-- Why a command has no transition. -/
inductive Refusal where
  /-- Raised by `exec` for an instruction without a meaning yet. Safe: nothing is claimed of it. -/
  | notModelled (mnemonic : String)
  /-- Raised by RESERVED: a word whose op is 5, 6 or 7 names no operation and the model refuses it (R95). Safe. -/
  | reservedCommand (op : BitVec 3)
deriving DecidableEq, Repr

/-- What one command comes to. -/
abbrev Result := Host.Outcome State Fault Refusal

/-- A voice after reset (R56). -/
def Voice.atReset : Voice where
  volL := 0
  volR := 0
  rate := 0
  start := 0
  adsrCfg := 0
  adsrVol := 0
  repeatAddr := 0
  cur := 0
  subPos := 0
  cacheValid := false
  cache := Vector.replicate blockSamples 0
  hist := (0, 0)
  playing := false

/-- The state after RESET for given parameters (R56): nothing listed in memory, so every byte reads `MEM_INIT`. -/
def State.resetWith (P : Params) : State where
  voices := Vector.replicate voiceCount Voice.atReset
  mvolL := 0
  mvolR := 0
  rvolL := 0
  rvolR := 0
  kon := 0
  koff := 0
  chrvb := 0
  irqa := 0
  stga := 0
  ctrl := 0
  xfer := 0
  stat := 0
  cdvolL := 0
  cdvolR := 0
  extvolL := 0
  extvolR := 0
  scur := 0
  mem := []
  out := List.replicate P.outCap 0
  wp := 0
  ready := false
  rdata := none
  pending := []

/-- The machine right after reset, which is also its power-on state (R56, R291). -/
def State.reset : State := State.resetWith params

end Sys2Proof.Machine
end

