-- ==== Sys2Proof/Machine/Operands.lean ====
section
/-! DEFINITION. The operands of a command: the bytes of a register and the selected voice (R120 to R122). -/

namespace Sys2Proof.Machine

open Sys2Proof.Config

/-- `RegReadByte(R, k)`: bits [8k+7:8k] of the register (R120). -/
def regReadByte {w : Nat} (r : BitVec w) (k : Nat) : Byte := r.extractLsb' (8 * k) 8

/-- `RegWriteByte(R, k, b)`: the register with bits [8k+7:8k] set to b and every other bit as it was (R121). -/
def regWriteByte {w : Nat} (r : BitVec w) (k : Nat) (b : Byte) : BitVec w :=
  (r &&& ~~~((0xFF#w) <<< (8 * k))) ||| (b.setWidth w <<< (8 * k))

/-- The record of the selected voice (R122). -/
def State.voice (s : State) (v : Fin voiceCount) : Voice := s.voices.get v

/-- The selected voice's record replaced. -/
def State.setVoice (s : State) (v : Fin voiceCount) (x : Voice) : State := { s with voices := s.voices.set v.val x v.isLt }

/-- The selected voice's record changed by f. -/
def State.modifyVoice (s : State) (v : Fin voiceCount) (f : Voice → Voice) : State := s.setVoice v (f (s.voice v))

/-- The voices in the order every loop of the spec visits them: ascending (R163, R200, R274). -/
def voiceOrder : List (Fin voiceCount) := List.finRange voiceCount

end Sys2Proof.Machine
end

