-- ==== Sys2Proof/Machine/Flags.lean ====
section
/-! DEFINITION. Every one-bit rule of the spec: the bits of a block's flag byte, the key-mask bits, the status mirror and
the ready flag. The core has no condition codes (R55). -/

namespace Sys2Proof.Machine

open Sys2Proof.Config

/-- The loop-start bit of a flag byte, bit 2 (R14, R209). -/
def loopStart (f : Byte) : Bool := f.getLsbD 2

/-- The loop-end bit of a flag byte, bit 0 (R14, R210). -/
def loopEnd (f : Byte) : Bool := f.getLsbD 0

/-- Whether a key mask selects voice v: its bit v (R163, R166). -/
def selects (mask : Reg32) (v : Fin voiceCount) : Bool := mask.getLsbD v.val

/-- The status word with the mirrored bits taken from the control word (R194). -/
def mirrored (P : Params) (stat ctrl : Reg16) : Reg16 := (stat &&& ~~~P.mirrorMask) ||| (ctrl &&& P.mirrorMask)

/-- After an append: at `OUT_CAP` the write index wraps to 0 and ready is set, else nothing changes (R246). -/
def wrapAndReady (P : Params) (s : State) : State := if s.wp = P.outCap then { s with wp := 0, ready := true } else s

end Sys2Proof.Machine
end

