-- ==== Sys2Proof/Machine/Memory.lean ====
section
/-! DEFINITION. Voice memory as a list of bytes in one canonical form: reading, writing, and the form itself (R11, R51, R87). -/

namespace Sys2Proof.Machine

open Sys2Proof.Config

/-- The byte at address a: the listed one, else the initial contents (R87). -/
def Memory.read (init : Nat → Byte) (m : Memory) (a : Nat) : Byte :=
  match m with
  | [] => init a
  | c :: rest => if c.1 = a then c.2 else Memory.read init rest a

/-- The cell for byte b at address a, listed only where it differs from the initial contents. -/
def Memory.cells (init : Nat → Byte) (a : Nat) (b : Byte) : Memory := if b = init a then [] else [(a, b)]

/-- Memory with byte b at address a, in canonical form again. -/
def Memory.write (init : Nat → Byte) (m : Memory) (a : Nat) (b : Byte) : Memory :=
  match m with
  | [] => Memory.cells init a b
  | c :: rest =>
    if a < c.1 then Memory.cells init a b ++ c :: rest
    else if a = c.1 then Memory.cells init a b ++ rest
    else c :: Memory.write init rest a b

/-- The canonical form: addresses strictly rising and below `VOICE_MEM_BYTES`, no entry equal to the initial contents. -/
def Memory.wf (init : Nat → Byte) (m : Memory) : Bool :=
  match m with
  | [] => true
  | c :: rest =>
    decide (c.1 < voiceMemBytes) && decide (c.2 ≠ init c.1) && rest.all (fun d => decide (c.1 < d.1)) &&
      Memory.wf init rest

/-- `MemRead(a, 1)`: addresses wrap modulo `VOICE_MEM_BYTES` (R11). -/
def memRead (P : Params) (m : Memory) (a : Nat) : Byte := Memory.read P.memInit m (a % voiceMemBytes)

/-- `MemWrite(a, 1, b)` (R11). -/
def memWrite (P : Params) (m : Memory) (a : Nat) (b : Byte) : Memory := Memory.write P.memInit m (a % voiceMemBytes) b

/-- The byte address of an address unit (R71). -/
def unitAddress (u : Reg16) : Nat := addrUnit * u.toNat

/-- The 16 bytes of the block at address unit u, in increasing address order (R72). -/
def readBlock (P : Params) (m : Memory) (u : Reg16) : Block := Vector.ofFn fun i => memRead P m (unitAddress u + i.val)

/-- The flag byte of the block at address unit u: its second byte (R72, R208). -/
def flagByte (P : Params) (m : Memory) (u : Reg16) : Byte := memRead P m (unitAddress u + 1)

end Sys2Proof.Machine
end

