-- ==== Sys2Proof/Machine/Voice.lean ====
section
/-! DEFINITION. What can happen to one voice: key-on, key-off, and the tick of 43_voice_step.md, step by step. A tick reads
its own voice and voice memory and writes its own voice (R201), so it is a function of those two. -/

namespace Sys2Proof.Machine

open Sys2Proof.Config

/-! ## Key-on and key-off -/

/-- `KeyOn(v)` (R170). -/
def Voice.keyOn (x : Voice) : Voice := { x with cur := x.start, repeatAddr := x.start, adsrVol := 0, playing := true }

/-- `KeyOff(v)` (R171). -/
def Voice.keyOff (x : Voice) : Voice := { x with playing := false }

/-! ## The tick -/

/-- What a voice's tick hands the mixer: whether it emitted, and the sample (`act[v]`, `e[v]`, R200). -/
structure Emission where
  /-- `act[v]`. -/
  act : Bool
  /-- `e[v]`. -/
  sample : Sample
deriving DecidableEq, Repr

/-- What an Idle voice's tick returns (R202). -/
def Emission.silent : Emission := ⟨false, 0⟩

/-- Tick step 2: decode the current block if the cache is not valid (R203). -/
def Voice.refill (P : Params) (m : Memory) (x : Voice) : Voice :=
  if x.cacheValid then x
  else
    let d := P.decode (readBlock P m x.cur) x.hist
    { x with cache := d.1, hist := d.2, cacheValid := true }

/-- The sample index, `subPos >> 12` (R33, R204). -/
def Voice.index (x : Voice) : Nat := x.subPos.toNat / 4096

/-- Tick step 3: the cached sample at the index. R57 keeps the index below 28; outside, no rule gives a sample (log
entry 7). -/
def Voice.emitted (x : Voice) : Sample :=
  if h : x.index < blockSamples then x.cache[x.index] else Config.sampleBeyondBlock x.subPos

/-- Tick step 4: the advanced position, an unbounded integer (R205). -/
def Voice.advanced (x : Voice) : Nat := x.subPos.toNat + min rateUnity x.rate.toNat

/-- The voice at the advanced position, in the same block (R206, R208). -/
def Voice.moved (x : Voice) : Voice := { x with subPos := BitVec.ofNat 17 x.advanced }

/-- Tick step 6: the crossing to the next block (R207). -/
def Voice.cross (x : Voice) : Voice :=
  { x with
    subPos := BitVec.ofNat 17 (x.advanced - subPosLimit)
    cur := x.cur + BitVec.ofNat 16 blockStride
    cacheValid := false }

/-- Tick step 7b: a loop-start flag makes the current block the repeat point (R209). -/
def Voice.applyLoopStart (f : Byte) (x : Voice) : Voice := if loopStart f then { x with repeatAddr := x.cur } else x

/-- Tick step 7c: a loop-end flag moves to the repeat point and stops the voice (R210). -/
def Voice.applyLoopEnd (f : Byte) (x : Voice) : Voice :=
  if loopEnd f then { x with cur := x.repeatAddr, playing := false } else x

/-- Tick steps 5 to 7: move to the advanced position (R206 to R210). -/
def Voice.move (P : Params) (m : Memory) (x : Voice) : Voice :=
  if x.advanced / 4096 = x.index then x.moved
  else if subPosLimit ≤ x.advanced then x.cross
  else (x.moved.applyLoopStart (flagByte P m x.cur)).applyLoopEnd (flagByte P m x.cur)

/-- Tick step 1 for an Idle voice: nothing, or the cache cleared where the parameter says so (R202). -/
def Voice.idleTick (P : Params) (x : Voice) : Voice := if P.idleTickClearsCache then { x with cacheValid := false } else x

/-- `VoiceTick(v)` (R211): what the voice emits, and the voice after the tick. -/
def voiceTick (P : Params) (m : Memory) (x : Voice) : Emission × Voice :=
  if x.playing then
    let y := x.refill P m
    (⟨true, y.emitted⟩, y.move P m)
  else (Emission.silent, x.idleTick P)

end Sys2Proof.Machine
end

