-- ==== Sys2Proof/Machine/Mixer.lean ====
section
/-! DEFINITION. The stereo mixer and the output buffer (44_mixer_output.md). -/

namespace Sys2Proof.Machine

open Sys2Proof.Config

/-- The emissions of one STEP, one for each voice. -/
abbrev Emissions := Vector Emission voiceCount

/-- What one voice adds to an accumulator: its sample times its gain if it emitted, else nothing (R242). -/
def contribution (P : Params) (e : Emission) (vol : Reg16) : Int :=
  if e.act then e.sample.toInt * P.volumeGain vol else 0

/-- `accL` (R242). -/
def accLeft (P : Params) (es : Emissions) (s : State) : Int :=
  (voiceOrder.map fun v => contribution P (es.get v) (s.voice v).volL).sum

/-- `accR` (R242). -/
def accRight (P : Params) (es : Emissions) (s : State) : Int :=
  (voiceOrder.map fun v => contribution P (es.get v) (s.voice v).volR).sum

/-- `mL`: the left accumulator scaled by the left main gain (R243). -/
def mixLeft (P : Params) (es : Emissions) (s : State) : Int := accLeft P es s * P.volumeGain s.mvolL

/-- `mR`: the right accumulator scaled by the right main gain (R243). -/
def mixRight (P : Params) (es : Emissions) (s : State) : Int := accRight P es s * P.volumeGain s.mvolR

/-- `clamp(x, lo, hi) = min(max(x, lo), hi)` (R9). -/
def clampInt (x lo hi : Int) : Int := min (max x lo) hi

/-- The clamp to [-1, 1] and the truncation toward zero, as an integer (R244). -/
def quantise (m : Int) : Int := Int.tdiv (clampInt m (-(2 ^ 45)) (2 ^ 45) * 0x7FFF) (2 ^ 45)

/-- One frame written at the write index, left slot first, each value a 16-bit two's-complement word (R245). A slot outside
the buffer is no slot (log entry 8). -/
def appendFrame (l r : Int) (s : State) : State :=
  { s with
    out := (s.out.set s.wp (BitVec.ofInt 16 l)).set (s.wp + 1) (BitVec.ofInt 16 r)
    wp := s.wp + 2 }

/-- `Mix(act, e)` (R240 to R246). -/
def mix (P : Params) (es : Emissions) (s : State) : State :=
  wrapAndReady P (appendFrame (quantise (mixLeft P es s)) (quantise (mixRight P es s)) s)

end Sys2Proof.Machine
end

