-- ==== Sys2Proof/Machine/Ops.lean ====
section
/-! DEFINITION. The named operations over the whole state: answering the host, the key-mask commits, the staging path, the
tick of all voices, reset, the observation ports, and taking the next command. The core takes no exception and has no
return from one (R275, R276), so neither is an operation. -/

namespace Sys2Proof.Machine

open Sys2Proof.Config

/-! ## What a command returns (R90; log entry 2) -/

/-- The command was a READ and returns byte b. -/
def State.answer (s : State) (b : Byte) : State := { s with rdata := some b }

/-- The command returns no value. -/
def State.finish (s : State) : State := { s with rdata := none }

/-! ## Key-mask commits -/

/-- `KeyOn(v)` for every voice v whose bit of the key-on mask is 1, in ascending order (R163). -/
def commitKeyOn (s : State) : State :=
  voiceOrder.foldl (fun t v => if selects t.kon v then t.modifyVoice v Voice.keyOn else t) s

/-- `KeyOff(v)` for every voice v whose bit of the key-off mask is 1, in ascending order (R166). -/
def commitKeyOff (s : State) : State :=
  voiceOrder.foldl (fun t v => if selects t.koff v then t.modifyVoice v Voice.keyOff else t) s

/-! ## The staging path -/

/-- The staging cursor set to the byte address of the staging address (R184). -/
def reloadCursor (s : State) : State := { s with scur := BitVec.ofNat 19 (unitAddress s.stga % voiceMemBytes) }

/-- One byte stored at the staging cursor, which advances by one and wraps (R186). -/
def stageByte (P : Params) (b : Byte) (s : State) : State :=
  { s with
    mem := memWrite P s.mem s.scur.toNat b
    scur := BitVec.ofNat 19 ((s.scur.toNat + 1) % voiceMemBytes) }

/-- The status word refreshed from the control word (R194). -/
def refreshStatus (P : Params) (s : State) : State := { s with stat := mirrored P s.stat s.ctrl }

/-! ## STEP -/

/-- Voice v ticked: its emission noted, its record replaced (R200). -/
def tickOne (P : Params) (acc : Emissions × State) (v : Fin voiceCount) : Emissions × State :=
  let r := voiceTick P acc.2.mem (acc.2.voice v)
  (acc.1.set v.val r.1 v.isLt, acc.2.setVoice v r.2)

/-- Voices 0 to 23 ticked in ascending order (R200, R201). -/
def tickVoices (P : Params) (s : State) : Emissions × State :=
  voiceOrder.foldl (tickOne P) (Vector.replicate voiceCount Emission.silent, s)

/-- One output-sample tick: every voice ticks, then the mixer runs (R200). -/
def stepTick (P : Params) (s : State) : State :=
  let r := tickVoices P s
  mix P r.1 r.2

/-! ## RESET -/

/-- Every state element at its reset value (R290); the commands the host has issued are no state of the core (R24). -/
def resetCore (P : Params) (s : State) : State := { State.resetWith P with pending := s.pending }

/-! ## The observation ports -/

/-- The output port: the buffer, the write index and the ready flag, observed without a state change (R254). -/
def outputPort (s : State) : List Sample × Nat × Bool := (s.out, s.wp, s.ready)

/-- The debug port: the byte of voice memory at index a, observed without a state change (R256). -/
def debugPort (P : Params) (s : State) (a : Nat) : Byte := memRead P s.mem a

/-! ## Taking the next command -/

/-- The oldest command word the host has issued, and the state with it taken; nothing if there is none (log entry 1). -/
def takeCommand (s : State) : Option (Command × State) :=
  match s.pending with
  | [] => none
  | c :: rest => some (c, { s with pending := rest })

/-- With no command issued the state is held unchanged (R282). -/
def idle (s : State) : State := s

/-- A command word issued as the very next one. -/
def issueNext (c : Command) (s : State) : State := { s with pending := c :: s.pending }

end Sys2Proof.Machine
end

