-- ==== Sys2Proof/Machine/Control.lean ====
section
/-! DEFINITION. The meanings of STEP, ACK and RESET, and the refusal of RESERVED. -/

namespace Sys2Proof.Machine

open Sys2Proof.Config

/-- STEP (R200). -/
def execStep (s : State) : Result := .next (stepTick params s).finish

/-- ACK clears the ready flag and nothing else (R253). -/
def execAck (s : State) : Result := .next { s with ready := false }.finish

/-- RESET (R290). -/
def execReset (s : State) : Result := .next (resetCore params s)

/-- RESERVED: the word names no operation, and the model refuses it (R95; log entry 11). -/
def execReserved (op : BitVec 3) (_s : State) : Result := .refused (.reservedCommand op)

end Sys2Proof.Machine
end

