-- ==== Sys2Proof/Machine/GlobalRegisters.lean ====
section
/-! DEFINITION. The meanings of READ and WRITE of the global storage registers and of unmapped addresses (40_register_access.md, sections 3 and 4). -/

namespace Sys2Proof.Machine

open Sys2Proof.Config

/-- RD.MVOLL (R137). -/
def execRdMvoll (k : Fin 2) (s : State) : Result := .next (s.answer (regReadByte s.mvolL k.val))

/-- WR.MVOLL (R138). -/
def execWrMvoll (k : Fin 2) (b : Byte) (s : State) : Result :=
  .next { s with mvolL := regWriteByte s.mvolL k.val b }.finish

/-- RD.MVOLR (R139). -/
def execRdMvolr (k : Fin 2) (s : State) : Result := .next (s.answer (regReadByte s.mvolR k.val))

/-- WR.MVOLR (R140). -/
def execWrMvolr (k : Fin 2) (b : Byte) (s : State) : Result :=
  .next { s with mvolR := regWriteByte s.mvolR k.val b }.finish

/-- RD.RVOLL (R141). -/
def execRdRvoll (k : Fin 2) (s : State) : Result := .next (s.answer (regReadByte s.rvolL k.val))

/-- WR.RVOLL (R142). -/
def execWrRvoll (k : Fin 2) (b : Byte) (s : State) : Result :=
  .next { s with rvolL := regWriteByte s.rvolL k.val b }.finish

/-- RD.RVOLR (R143). -/
def execRdRvolr (k : Fin 2) (s : State) : Result := .next (s.answer (regReadByte s.rvolR k.val))

/-- WR.RVOLR (R144). -/
def execWrRvolr (k : Fin 2) (b : Byte) (s : State) : Result :=
  .next { s with rvolR := regWriteByte s.rvolR k.val b }.finish

/-- RD.CHRVB (R145). -/
def execRdChrvb (k : Fin 4) (s : State) : Result := .next (s.answer (regReadByte s.chrvb k.val))

/-- WR.CHRVB (R146). -/
def execWrChrvb (k : Fin 4) (b : Byte) (s : State) : Result :=
  .next { s with chrvb := regWriteByte s.chrvb k.val b }.finish

/-- RD.CDVOLL (R147). -/
def execRdCdvoll (k : Fin 2) (s : State) : Result := .next (s.answer (regReadByte s.cdvolL k.val))

/-- WR.CDVOLL (R148). -/
def execWrCdvoll (k : Fin 2) (b : Byte) (s : State) : Result :=
  .next { s with cdvolL := regWriteByte s.cdvolL k.val b }.finish

/-- RD.CDVOLR (R149). -/
def execRdCdvolr (k : Fin 2) (s : State) : Result := .next (s.answer (regReadByte s.cdvolR k.val))

/-- WR.CDVOLR (R150). -/
def execWrCdvolr (k : Fin 2) (b : Byte) (s : State) : Result :=
  .next { s with cdvolR := regWriteByte s.cdvolR k.val b }.finish

/-- RD.UNMAPPED: returns 0 and changes no state, at every address no register decodes (R151). -/
def execRdUnmapped (_a : PortAddr) (s : State) : Result := .next (s.answer 0)

/-- WR.UNMAPPED: no state changes (R152). -/
def execWrUnmapped (_a : PortAddr) (_b : Byte) (s : State) : Result := .next s.finish

end Sys2Proof.Machine
end

