-- ==== Sys2Proof/Machine/KeyMasks.lean ====
section
/-! DEFINITION. The meanings of READ and WRITE of the key-on and key-off masks (41_key_on_off.md). -/

namespace Sys2Proof.Machine

open Sys2Proof.Config

/-- RD.KON (R161). -/
def execRdKon (k : Fin 4) (s : State) : Result := .next (s.answer (regReadByte s.kon k.val))

/-- WR.KON (R162). -/
def execWrKon (k : Fin 3) (b : Byte) (s : State) : Result :=
  .next { s with kon := regWriteByte s.kon k.val b }.finish

/-- WR.KON.COMMIT: byte 3 is stored, then the whole mask is committed (R163). -/
def execWrKonCommit (b : Byte) (s : State) : Result :=
  .next (commitKeyOn { s with kon := regWriteByte s.kon 3 b }).finish

/-- RD.KOFF (R164). -/
def execRdKoff (k : Fin 4) (s : State) : Result := .next (s.answer (regReadByte s.koff k.val))

/-- WR.KOFF (R165). -/
def execWrKoff (k : Fin 3) (b : Byte) (s : State) : Result :=
  .next { s with koff := regWriteByte s.koff k.val b }.finish

/-- WR.KOFF.COMMIT: byte 3 is stored, then the whole mask is committed (R166). -/
def execWrKoffCommit (b : Byte) (s : State) : Result :=
  .next (commitKeyOff { s with koff := regWriteByte s.koff 3 b }).finish

end Sys2Proof.Machine
end

