-- ==== Sys2Proof/Machine/StagingStatus.lean ====
section
/-! DEFINITION. The meanings of READ and WRITE of the IRQ address, the staging path, control, transfer control and status (42_staging_status.md). -/

namespace Sys2Proof.Machine

open Sys2Proof.Config

/-- RD.IRQA (R181). -/
def execRdIrqa (k : Fin 2) (s : State) : Result := .next (s.answer (regReadByte s.irqa k.val))

/-- WR.IRQA (R182). -/
def execWrIrqa (k : Fin 2) (b : Byte) (s : State) : Result :=
  .next { s with irqa := regWriteByte s.irqa k.val b }.finish

/-- RD.STGA (R183). -/
def execRdStga (k : Fin 2) (s : State) : Result := .next (s.answer (regReadByte s.stga k.val))

/-- WR.STGA: each byte write also reloads the staging cursor (R184). -/
def execWrStga (k : Fin 2) (b : Byte) (s : State) : Result :=
  .next (reloadCursor { s with stga := regWriteByte s.stga k.val b }).finish

/-- RD.FIFO: the FIFO has no storage and no read path, so either address returns 0 (R185). -/
def execRdFifo (_k : Fin 2) (s : State) : Result := .next (s.answer 0)

/-- WR.FIFO: either address stores the byte at the staging cursor and advances the cursor (R186). -/
def execWrFifo (_k : Fin 2) (b : Byte) (s : State) : Result := .next (stageByte params b s).finish

/-- RD.CTRL (R187). -/
def execRdCtrl (k : Fin 2) (s : State) : Result := .next (s.answer (regReadByte s.ctrl k.val))

/-- WR.CTRL (R188). -/
def execWrCtrl (k : Fin 2) (b : Byte) (s : State) : Result :=
  .next { s with ctrl := regWriteByte s.ctrl k.val b }.finish

/-- RD.XFER (R189). -/
def execRdXfer (k : Fin 2) (s : State) : Result := .next (s.answer (regReadByte s.xfer k.val))

/-- WR.XFER (R190). -/
def execWrXfer (k : Fin 2) (b : Byte) (s : State) : Result :=
  .next { s with xfer := regWriteByte s.xfer k.val b }.finish

/-- RD.STAT: either byte first refreshes the status word from the control word (R194). -/
def execRdStat (k : Fin 2) (s : State) : Result :=
  let t := refreshStatus params s
  .next (t.answer (regReadByte t.stat k.val))

/-- WR.STAT (R195). -/
def execWrStat (k : Fin 2) (b : Byte) (s : State) : Result :=
  .next { s with stat := regWriteByte s.stat k.val b }.finish

end Sys2Proof.Machine
end

