-- ==== Sys2Proof/Machine/VoiceRegisters.lean ====
section
/-! DEFINITION. The meanings of READ and WRITE of the voice registers (40_register_access.md, section 2). -/

namespace Sys2Proof.Machine

open Sys2Proof.Config

/-- RD.VOLL (R123). -/
def execRdVoll (v : Fin 24) (k : Fin 2) (s : State) : Result := .next (s.answer (regReadByte (s.voice v).volL k.val))

/-- WR.VOLL (R124). -/
def execWrVoll (v : Fin 24) (k : Fin 2) (b : Byte) (s : State) : Result :=
  .next (s.modifyVoice v fun x => { x with volL := regWriteByte x.volL k.val b }).finish

/-- RD.VOLR (R125). -/
def execRdVolr (v : Fin 24) (k : Fin 2) (s : State) : Result := .next (s.answer (regReadByte (s.voice v).volR k.val))

/-- WR.VOLR (R126). -/
def execWrVolr (v : Fin 24) (k : Fin 2) (b : Byte) (s : State) : Result :=
  .next (s.modifyVoice v fun x => { x with volR := regWriteByte x.volR k.val b }).finish

/-- RD.RATE (R127). -/
def execRdRate (v : Fin 24) (k : Fin 2) (s : State) : Result := .next (s.answer (regReadByte (s.voice v).rate k.val))

/-- WR.RATE (R128). -/
def execWrRate (v : Fin 24) (k : Fin 2) (b : Byte) (s : State) : Result :=
  .next (s.modifyVoice v fun x => { x with rate := regWriteByte x.rate k.val b }).finish

/-- RD.START (R129). -/
def execRdStart (v : Fin 24) (k : Fin 2) (s : State) : Result := .next (s.answer (regReadByte (s.voice v).start k.val))

/-- WR.START: the write also resets the voice's sub-address, on either byte (R130). -/
def execWrStart (v : Fin 24) (k : Fin 2) (b : Byte) (s : State) : Result :=
  .next (s.modifyVoice v fun x => { x with start := regWriteByte x.start k.val b, subPos := 0 }).finish

/-- RD.ADSRCFG (R131). -/
def execRdAdsrcfg (v : Fin 24) (k : Fin 4) (s : State) : Result := .next (s.answer (regReadByte (s.voice v).adsrCfg k.val))

/-- WR.ADSRCFG (R132). -/
def execWrAdsrcfg (v : Fin 24) (k : Fin 4) (b : Byte) (s : State) : Result :=
  .next (s.modifyVoice v fun x => { x with adsrCfg := regWriteByte x.adsrCfg k.val b }).finish

/-- RD.ADSRVOL (R133). -/
def execRdAdsrvol (v : Fin 24) (k : Fin 2) (s : State) : Result := .next (s.answer (regReadByte (s.voice v).adsrVol k.val))

/-- WR.ADSRVOL (R134). -/
def execWrAdsrvol (v : Fin 24) (k : Fin 2) (b : Byte) (s : State) : Result :=
  .next (s.modifyVoice v fun x => { x with adsrVol := regWriteByte x.adsrVol k.val b }).finish

/-- RD.REPEAT (R135). -/
def execRdRepeat (v : Fin 24) (k : Fin 2) (s : State) : Result := .next (s.answer (regReadByte (s.voice v).repeatAddr k.val))

/-- WR.REPEAT (R136). -/
def execWrRepeat (v : Fin 24) (k : Fin 2) (b : Byte) (s : State) : Result :=
  .next (s.modifyVoice v fun x => { x with repeatAddr := regWriteByte x.repeatAddr k.val b }).finish

end Sys2Proof.Machine
end

