-- ==== Sys2Proof/Machine/Dispatch.lean ====
section
/-! DEFINITION. One arm per instruction: each calls the meaning of its instruction. -/

namespace Sys2Proof.Machine

open Sys2Proof

def exec (i : Instr) (s : State) : Host.Outcome State Fault Refusal :=
  match i with
  | .rdVoll v k => Sys2Proof.Machine.execRdVoll v k s
  | .wrVoll v k b => Sys2Proof.Machine.execWrVoll v k b s
  | .rdVolr v k => Sys2Proof.Machine.execRdVolr v k s
  | .wrVolr v k b => Sys2Proof.Machine.execWrVolr v k b s
  | .rdRate v k => Sys2Proof.Machine.execRdRate v k s
  | .wrRate v k b => Sys2Proof.Machine.execWrRate v k b s
  | .rdStart v k => Sys2Proof.Machine.execRdStart v k s
  | .wrStart v k b => Sys2Proof.Machine.execWrStart v k b s
  | .rdAdsrcfg v k => Sys2Proof.Machine.execRdAdsrcfg v k s
  | .wrAdsrcfg v k b => Sys2Proof.Machine.execWrAdsrcfg v k b s
  | .rdAdsrvol v k => Sys2Proof.Machine.execRdAdsrvol v k s
  | .wrAdsrvol v k b => Sys2Proof.Machine.execWrAdsrvol v k b s
  | .rdRepeat v k => Sys2Proof.Machine.execRdRepeat v k s
  | .wrRepeat v k b => Sys2Proof.Machine.execWrRepeat v k b s
  | .rdMvoll k => Sys2Proof.Machine.execRdMvoll k s
  | .wrMvoll k b => Sys2Proof.Machine.execWrMvoll k b s
  | .rdMvolr k => Sys2Proof.Machine.execRdMvolr k s
  | .wrMvolr k b => Sys2Proof.Machine.execWrMvolr k b s
  | .rdRvoll k => Sys2Proof.Machine.execRdRvoll k s
  | .wrRvoll k b => Sys2Proof.Machine.execWrRvoll k b s
  | .rdRvolr k => Sys2Proof.Machine.execRdRvolr k s
  | .wrRvolr k b => Sys2Proof.Machine.execWrRvolr k b s
  | .rdChrvb k => Sys2Proof.Machine.execRdChrvb k s
  | .wrChrvb k b => Sys2Proof.Machine.execWrChrvb k b s
  | .rdCdvoll k => Sys2Proof.Machine.execRdCdvoll k s
  | .wrCdvoll k b => Sys2Proof.Machine.execWrCdvoll k b s
  | .rdCdvolr k => Sys2Proof.Machine.execRdCdvolr k s
  | .wrCdvolr k b => Sys2Proof.Machine.execWrCdvolr k b s
  | .rdUnmapped a => Sys2Proof.Machine.execRdUnmapped a s
  | .wrUnmapped a b => Sys2Proof.Machine.execWrUnmapped a b s
  | .rdKon k => Sys2Proof.Machine.execRdKon k s
  | .wrKon k b => Sys2Proof.Machine.execWrKon k b s
  | .wrKonCommit b => Sys2Proof.Machine.execWrKonCommit b s
  | .rdKoff k => Sys2Proof.Machine.execRdKoff k s
  | .wrKoff k b => Sys2Proof.Machine.execWrKoff k b s
  | .wrKoffCommit b => Sys2Proof.Machine.execWrKoffCommit b s
  | .rdIrqa k => Sys2Proof.Machine.execRdIrqa k s
  | .wrIrqa k b => Sys2Proof.Machine.execWrIrqa k b s
  | .rdStga k => Sys2Proof.Machine.execRdStga k s
  | .wrStga k b => Sys2Proof.Machine.execWrStga k b s
  | .rdFifo k => Sys2Proof.Machine.execRdFifo k s
  | .wrFifo k b => Sys2Proof.Machine.execWrFifo k b s
  | .rdCtrl k => Sys2Proof.Machine.execRdCtrl k s
  | .wrCtrl k b => Sys2Proof.Machine.execWrCtrl k b s
  | .rdXfer k => Sys2Proof.Machine.execRdXfer k s
  | .wrXfer k b => Sys2Proof.Machine.execWrXfer k b s
  | .rdStat k => Sys2Proof.Machine.execRdStat k s
  | .wrStat k b => Sys2Proof.Machine.execWrStat k b s
  | .step => Sys2Proof.Machine.execStep s
  | .ack => Sys2Proof.Machine.execAck s
  | .reset => Sys2Proof.Machine.execReset s
  | .reserved op => Sys2Proof.Machine.execReserved op s

end Sys2Proof.Machine
end

