-- ==== Sys2Proof/Machine/Step.lean ====
section
/-! DEFINITION. One step: the oldest command the host has issued, decoded and run. -/

namespace Sys2Proof.Machine

/-- One host operation is one indivisible transition (R77, R81); with none issued the state is held (R282). -/
def step (s : State) : Host.Outcome State Fault Refusal :=
  match takeCommand s with
  | none => .next (idle s)
  | some (c, t) => exec (decodeWord c) t

/-- The state in which the next command taken is the word of these bits (log entry 3); a number that is no command word
issues nothing. -/
def State.withFetchWord (s : State) (nbits w : Nat) : State :=
  match commandOfBits nbits w with
  | .ok c => issueNext c s
  | .error _ => s

end Sys2Proof.Machine
end

