-- ==== Sys2Proof/Machine/Assembler.lean ====
section
/-! DEFINITION. The spec's assembly language and its pseudo-instructions: one line to its command words (R100, R101), and the
reading of a line of text. No rule of the machine uses it; programs of the spec are written in it. -/

namespace Sys2Proof.Machine

open Sys2Proof.Config

/-- A line of assembly language: the five commands of R100, then the pseudo-instructions of R101. -/
inductive AsmLine where
  | rd (a : PortAddr)
  | wr (a : PortAddr) (b : Byte)
  | step
  | ack
  | reset
  | wr16 (a : PortAddr) (x : Reg16)
  | wr32 (a : PortAddr) (x : Reg32)
  | rd16 (a : PortAddr)
  | rd32 (a : PortAddr)
  | kon (m : Reg32)
  | koff (m : Reg32)
  | vreg (v : Fin voiceCount) (off : Nat) (x : Reg16)
  | load (u : Reg16) (bytes : List Byte)
  | steps (n : Nat)
deriving DecidableEq, Repr

/-! ## From a line to command words -/

/-- `rd A` (R100). -/
def asmRd (a : PortAddr) : Command := commandWord 0 a 0

/-- `wr A, B` (R100). -/
def asmWr (a : PortAddr) (b : Byte) : Command := commandWord 1 a b

/-- `wr16 A, V`: low byte first (R101). -/
def asmWr16 (a : PortAddr) (x : Reg16) : List Command := [asmWr a (x.extractLsb' 0 8), asmWr (a + 1) (x.extractLsb' 8 8)]

/-- `wr32 A, V`: low byte first (R101). -/
def asmWr32 (a : PortAddr) (x : Reg32) : List Command :=
  [asmWr a (x.extractLsb' 0 8), asmWr (a + 1) (x.extractLsb' 8 8), asmWr (a + 2) (x.extractLsb' 16 8),
    asmWr (a + 3) (x.extractLsb' 24 8)]

/-- `step` (R100). -/
def asmStep : Command := commandWord 2 0 0

/-- `load U, b0, b1, ...`: the staging address, then every byte to the staging FIFO (R101, R196). -/
def asmLoad (u : Reg16) (bytes : List Byte) : List Command := asmWr16 0x1DA6 u ++ bytes.map (asmWr 0x1DA8)

/-- The command words of a line; ignored fields are 0 (R100, R101). -/
def assemble (l : AsmLine) : List Command :=
  match l with
  | .rd a => [asmRd a]
  | .wr a b => [asmWr a b]
  | .step => [asmStep]
  | .ack => [commandWord 3 0 0]
  | .reset => [commandWord 4 0 0]
  | .wr16 a x => asmWr16 a x
  | .wr32 a x => asmWr32 a x
  | .rd16 a => [asmRd a, asmRd (a + 1)]
  | .rd32 a => [asmRd a, asmRd (a + 1), asmRd (a + 2), asmRd (a + 3)]
  | .kon m => asmWr32 0x1D88 m
  | .koff m => asmWr32 0x1D8C m
  | .vreg v off x => asmWr16 (voiceAddress v off) x
  | .load u bytes => asmLoad u bytes
  | .steps n => List.replicate n asmStep

/-- What the two READs of `rd16` give together: `{rdata2, rdata1}` (R101). -/
def rd16Value (rdata1 rdata2 : Byte) : Reg16 := rdata2 ++ rdata1

/-- What the four READs of `rd32` give together: `{rdata4, rdata3, rdata2, rdata1}` (R101). -/
def rd32Value (rdata1 rdata2 rdata3 rdata4 : Byte) : Reg32 := rdata4 ++ rdata3 ++ rdata2 ++ rdata1

/-! ## From text to a line (log entry 12) -/

/-- What separates the words of a line. -/
def isSeparator (c : Char) : Bool := c == ' ' || c == ',' || c == '\t'

/-- The words of a text, with the letters of the word being read so far, last letter first. -/
def wordsFrom (text : List Char) (letters : List Char) : List (List Char) :=
  match text with
  | [] => if letters.isEmpty then [] else [letters.reverse]
  | c :: rest =>
    if isSeparator c then (if letters.isEmpty then wordsFrom rest [] else letters.reverse :: wordsFrom rest [])
    else wordsFrom rest (c :: letters)

/-- The words of a line; `;` begins a comment (R100). -/
def lineWords (text : List Char) : List (List Char) := wordsFrom (text.takeWhile (· != ';')) []

/-- The value of a digit, in either case. -/
def digitValue (c : Char) : Option Nat :=
  let n := c.toNat
  if 48 ≤ n ∧ n ≤ 57 then some (n - 48)
  else if 97 ≤ n ∧ n ≤ 102 then some (n - 87)
  else if 65 ≤ n ∧ n ≤ 70 then some (n - 55)
  else none

/-- Digits in a base, after a value already read. -/
def digitsFrom (base : Nat) (digits : List Char) (value : Nat) : Option Nat :=
  match digits with
  | [] => some value
  | c :: rest =>
    match digitValue c with
    | some d => if d < base then digitsFrom base rest (value * base + d) else none
    | none => none

/-- A number, decimal or `0x` hex (R100). -/
def numberOf (word : List Char) : Option Nat :=
  match word with
  | '0' :: 'x' :: d :: rest => digitsFrom 16 (d :: rest) 0
  | d :: rest => digitsFrom 10 (d :: rest) 0
  | [] => none

/-- A number that fits in w bits. -/
def fieldOf (w : Nat) (word : List Char) : Option (BitVec w) :=
  (numberOf word).bind fun n => if n < 2 ^ w then some (BitVec.ofNat w n) else none

/-- The offsets of the voice registers that `vreg` writes (R101). -/
def vregOffset (off : Nat) : Bool := [0, 2, 4, 6, 12, 14].contains off

/-- A line of text read as assembly language, if it is one (R100, R101). -/
def parseLine (text : List Char) : Option AsmLine :=
  match lineWords text with
  | [['r', 'd'], a] => (fieldOf 32 a).map .rd
  | [['w', 'r'], a, b] => (fieldOf 32 a).bind fun a => (fieldOf 8 b).map (.wr a)
  | [['s', 't', 'e', 'p']] => some .step
  | [['a', 'c', 'k']] => some .ack
  | [['r', 'e', 's', 'e', 't']] => some .reset
  | [['w', 'r', '1', '6'], a, x] => (fieldOf 32 a).bind fun a => (fieldOf 16 x).map (.wr16 a)
  | [['w', 'r', '3', '2'], a, x] => (fieldOf 32 a).bind fun a => (fieldOf 32 x).map (.wr32 a)
  | [['r', 'd', '1', '6'], a] => (fieldOf 32 a).map .rd16
  | [['r', 'd', '3', '2'], a] => (fieldOf 32 a).map .rd32
  | [['k', 'o', 'n'], m] => (fieldOf 32 m).map .kon
  | [['k', 'o', 'f', 'f'], m] => (fieldOf 32 m).map .koff
  | [['v', 'r', 'e', 'g'], v, off, x] =>
    (numberOf v).bind fun n => (numberOf off).bind fun off => (fieldOf 16 x).bind fun x =>
      if h : n < voiceCount then (if vregOffset off then some (.vreg ⟨n, h⟩ off x) else none) else none
  | ['l', 'o', 'a', 'd'] :: u :: bytes => (fieldOf 16 u).bind fun u => (bytes.mapM (fieldOf 8)).map (.load u)
  | [['s', 't', 'e', 'p', 's'], n] => (numberOf n).map .steps
  | _ => none

end Sys2Proof.Machine
end

