-- ==== Sys2Proof/Safety.lean ====
section
/-! DEFINITION. What counts as a sound state and a safe step, in the terms the statements use. -/

namespace Sys2Proof

open Sys2Proof.Config Sys2Proof.Machine

/-- Voice positions stay inside a block (R57). -/
def PositionsInBlock (s : State) : Prop := ∀ v : Fin voiceCount, (s.voice v).subPos.toNat < subPosLimit

/-- The write index is even and below `OUT_CAP` (R57). -/
def WriteIndexInBuffer (s : State) : Prop := s.wp % 2 = 0 ∧ s.wp < outCap

/-- The output buffer has `OUT_CAP` slots (R52). -/
def BufferHasCapacity (s : State) : Prop := s.out.length = outCap

/-- Voice memory is in its canonical form, so that equal memories are equal data. -/
def MemoryCanonical (s : State) : Prop := Memory.wf params.memInit s.mem = true

/-- The external-input volume holds its reset value (R49). -/
def ExternalVolumeStuck (s : State) : Prop := s.extvolL = 0 ∧ s.extvolR = 0

/-- The invariant of the machine. -/
structure Sound (s : State) : Prop where
  positions : PositionsInBlock s
  writeIndex : WriteIndexInBuffer s
  capacity : BufferHasCapacity s
  memory : MemoryCanonical s
  external : ExternalVolumeStuck s

/-- A step is safe from s if it answers a next state: the core never stops (R270). -/
def Safe (s : State) : Prop := ∃ t, step s = .next t

/-- The byte of voice memory at address a, through the debug port (R256). -/
def memoryByte (s : State) (a : Nat) : Byte := debugPort params s a

end Sys2Proof
end

