-- ==== Sys2Proof/Certificates/Slice0/Obligations.lean ====
section
/-! DEFINITION. The statements for the provers. First the terms they are written in (namespace Sys2Proof.Claims), then one
definition for each statement. -/

namespace Sys2Proof.Claims

open Sys2Proof.Config Sys2Proof.Machine

/-! ## Terms -/

/-- The command word with op in bits [42:40], addr in [39:8] and data in [7:0], as a number (R90). -/
def word (op addr data : Nat) : Command := BitVec.ofNat 43 (op * 2 ^ 40 + addr * 2 ^ 8 + data)

/-- Every READ word of port address a, whatever its data, decodes to i (R90, R92). -/
def ReadWord (a : Nat) (i : Instr) : Prop := ∀ d : Byte, decodeWord (word 0 a d.toNat) = i

/-- The WRITE word of port address a and byte b decodes to i (R90, R92). -/
def WriteWord (a : Nat) (b : Byte) (i : Instr) : Prop := decodeWord (word 1 a b.toNat) = i

/-- Byte k of a register: bits [8k+7:8k] (R120). -/
def byteOf {w : Nat} (r : BitVec w) (k : Nat) : Byte := (r >>> (8 * k)).setWidth 8

/-- The new value is the old one with bits [8k+7:8k] replaced by b and every other bit kept (R121). -/
def ByteReplaced {w : Nat} (old new : BitVec w) (k : Nat) (b : Byte) : Prop :=
  ∀ j, j < w → new.getLsbD j = if 8 * k ≤ j ∧ j < 8 * k + 8 then b.getLsbD (j - 8 * k) else old.getLsbD j

/-- The instruction runs, returns byte x and changes nothing else. -/
def Returns (i : Instr) (s : State) (x : Byte) : Prop := exec i s = .next { s with rdata := some x }

/-- A READ of byte k of the register `get` at port address `base + k`: its word, the byte it returns, and nothing else
changed. -/
def ReadsRegister {w n : Nat} (base : Nat) (i : Fin n → Instr) (get : State → BitVec w) : Prop :=
  ∀ k : Fin n, ReadWord (base + k) (i k) ∧ ∀ s, Returns (i k) s (byteOf (get s) k)

/-- A WRITE of byte b to byte k of voice v's register: its word, the byte replaced in that register of that voice, and
nothing else changed but that no byte is returned. `put` is the record with the register replaced. -/
def WritesVoiceRegister {w n : Nat} (base : Nat) (v : Fin voiceCount) (i : Fin n → Byte → Instr)
    (get : Voice → BitVec w) (put : Voice → BitVec w → Voice) : Prop :=
  ∀ (k : Fin n) (b : Byte), WriteWord (base + k) b (i k b) ∧
    ∀ s, ∃ r, ByteReplaced (get (s.voice v)) r k b ∧
      exec (i k b) s = .next { s with voices := s.voices.set v (put (s.voice v) r), rdata := none }

/-- The same for a global register. -/
def WritesRegister {w n : Nat} (base : Nat) (i : Fin n → Byte → Instr) (get : State → BitVec w)
    (put : State → BitVec w → State) : Prop :=
  ∀ (k : Fin n) (b : Byte), WriteWord (base + k) b (i k b) ∧
    ∀ s, ∃ r, ByteReplaced (get s) r k b ∧ exec (i k b) s = .next { put s r with rdata := none }

/-- Writing both bytes of a register and reading them back gives the bytes written. -/
def RoundTrips16 (wr : Fin 2 → Byte → Instr) (rd : Fin 2 → Instr) : Prop :=
  ∀ (s : State) (b0 b1 : Byte), ∃ t1 t2 t3 t4,
    exec (wr 0 b0) s = .next t1 ∧ exec (wr 1 b1) t1 = .next t2 ∧
    exec (rd 0) t2 = .next t3 ∧ t3.rdata = some b0 ∧ exec (rd 1) t3 = .next t4 ∧ t4.rdata = some b1

/-- Writing all four bytes of a register and reading them back gives the bytes written. -/
def RoundTrips32 (wr : Fin 4 → Byte → Instr) (rd : Fin 4 → Instr) : Prop :=
  ∀ (s : State) (b0 b1 b2 b3 : Byte), ∃ t1 t2 t3 t4 t5 t6 t7 t8,
    exec (wr 0 b0) s = .next t1 ∧ exec (wr 1 b1) t1 = .next t2 ∧ exec (wr 2 b2) t2 = .next t3 ∧
    exec (wr 3 b3) t3 = .next t4 ∧
    exec (rd 0) t4 = .next t5 ∧ t5.rdata = some b0 ∧ exec (rd 1) t5 = .next t6 ∧ t6.rdata = some b1 ∧
    exec (rd 2) t6 = .next t7 ∧ t7.rdata = some b2 ∧ exec (rd 3) t7 = .next t8 ∧ t8.rdata = some b3

/-- The WRITE of byte k of the key-on mask: the last byte commits (R92 rows 12 and 13). -/
def writeKon (k : Fin 4) (b : Byte) : Instr := if h : k.val < 3 then .wrKon ⟨k.val, h⟩ b else .wrKonCommit b

/-- The WRITE of byte k of the key-off mask: the last byte commits (R92 rows 14 and 15). -/
def writeKoff (k : Fin 4) (b : Byte) : Instr := if h : k.val < 3 then .wrKoff ⟨k.val, h⟩ b else .wrKoffCommit b

/-- The mapped port addresses (R70). -/
def InMap (n : Nat) : Prop := (0x1C00 ≤ n ∧ n ≤ 0x1D8F) ∨ (0x1D98 ≤ n ∧ n ≤ 0x1D9B) ∨ (0x1DA4 ≤ n ∧ n ≤ 0x1DB3)

/-- The flag byte of voice v's current block, as memory holds it now (R72, R208). -/
def flagsOf (s : State) (v : Fin voiceCount) : Byte := memoryByte s (8 * (s.voice v).cur.toNat + 1)

/-- The 16 bytes of voice v's current block, in increasing address order (R72). -/
def blockOf (s : State) (v : Fin voiceCount) : Block := Vector.ofFn fun i => memoryByte s (8 * (s.voice v).cur.toNat + i)

/-- The samples a playing voice emits from in the next STEP: the cached ones, or the current block decoded (R203). -/
def playedCache (s : State) (v : Fin voiceCount) : Vector Sample blockSamples :=
  if (s.voice v).cacheValid then (s.voice v).cache else (Config.decode (blockOf s v) (s.voice v).hist).1

/-- The history a playing voice has after the refill of the next STEP (R203). -/
def playedHist (s : State) (v : Fin voiceCount) : History :=
  if (s.voice v).cacheValid then (s.voice v).hist else (Config.decode (blockOf s v) (s.voice v).hist).2

/-- The advanced position of the next tick (R205). -/
def nextPosition (s : State) (v : Fin voiceCount) : Nat := (s.voice v).subPos.toNat + min 0x1000 (s.voice v).rate.toNat

/-- The sample index (R204). -/
def sampleIndex (s : State) (v : Fin voiceCount) : Nat := (s.voice v).subPos.toNat / 4096

/-- What voice v adds to the mix of the next STEP before its volume: its sample, or 0 if it is Idle (R202, R204, R242). -/
def emission (s : State) (v : Fin voiceCount) : Int :=
  if (s.voice v).playing then ((playedCache s v).toList.getD (sampleIndex s v) 0).toInt else 0

/-- The left accumulator of the next STEP (R242). -/
def sumLeft (s : State) : Int := ∑ v : Fin voiceCount, emission s v * (s.voice v).volL.toInt

/-- The right accumulator of the next STEP (R242). -/
def sumRight (s : State) : Int := ∑ v : Fin voiceCount, emission s v * (s.voice v).volR.toInt

/-- An accumulator scaled by a main gain, clamped and truncated toward zero (R243, R244). -/
def outputValue (acc gain : Int) : Int := Int.tdiv (min (max (acc * gain) (-(2 ^ 45))) (2 ^ 45) * 0x7FFF) (2 ^ 45)

/-- The commands, issued to the core in state s, all run and leave it in state t. -/
def RunsTo (s : State) (cs : List Command) (t : State) : Prop :=
  Host.Core.run Sys2Proof.core cs.length { s with pending := cs } = .next t

/-- A voice keyed on: what R170 sets, and nothing else. -/
def keyedOn (x : Voice) : Voice := { x with cur := x.start, repeatAddr := x.start, adsrVol := 0, playing := true }

/-- A voice right after reset (R56). -/
def resetVoice : Voice := ⟨0, 0, 0, 0, 0, 0, 0, 0, 0, false, Vector.replicate 28 0, (0, 0), false⟩

end Sys2Proof.Claims

open Sys2Proof Sys2Proof.Config Sys2Proof.Machine Sys2Proof.Claims

/-! ## Commands and their words -/

/-- A step takes the oldest command the host has issued and runs the instruction it decodes to; with none issued the state
is held (R77, R81, R282; the queue of issued commands is the model's own, log entry 1). -/
def Obligations.StepRunsTheOldestCommand : Prop :=
  ∀ (s : State),
    (∀ (w : Command) (rest : List Command) (i : Instr), s.pending = w :: rest → decodeWord w = i → i.WellFormed →
      step s = exec i { s with pending := rest }) ∧
    (s.pending = [] → step s = .next s)

/-- The word placed where a step fetches is the one the next step runs, for every raw number that decodes (log entries 1
and 3). -/
def Obligations.FetchedWordRunsNext : Prop :=
  ∀ (s : State) (nbits w : Nat) (i : Instr), decodeTableWord nbits w = some i →
    step (s.withFetchWord nbits w) = exec i s

/-- Words written out from the encoding decode to the instruction they stand for (R90, R92; vectors E1 to E17). -/
def Obligations.WrittenOutWordsDecode : Prop :=
  decodeWord 0x000001C1000 = .rdVoll 1 0 ∧ decodeWord 0x100001D7F12 = .wrRepeat 23 1 0x12 ∧
  decodeWord 0x000001D1B00 = .rdAdsrcfg 17 3 ∧ decodeWord 0x000001D8000 = .rdMvoll 0 ∧
  decodeWord 0x100001D8A00 = .wrKon 2 0 ∧ decodeWord 0x100001D8B00 = .wrKonCommit 0 ∧
  decodeWord 0x100001D8F00 = .wrKoffCommit 0 ∧ decodeWord 0x100001DA9AB = .wrFifo 1 0xAB ∧
  decodeWord 0x0FFFFFFFF00 = .rdUnmapped 0xFFFFFFFF ∧ decodeWord 0x100001DB412 = .wrUnmapped 0x1DB4 0x12 ∧
  decodeWord 0x2FFFFFFFFFF = .step ∧ decodeWord 0x30000000000 = .ack ∧ decodeWord 0x40000000000 = .reset ∧
  decodeWord 0x50000000000 = .reserved 5 ∧ decodeWord 0x7FFFFFFFFFF = .reserved 7

/-- Every one of the 2^43 words decodes to a well-formed instruction (R99). -/
def Obligations.EveryWordDecodesWellFormed : Prop := ∀ w : Command, (decodeWord w).WellFormed

/-- Decoding the word of a well-formed instruction gives the instruction back, with every operand (R90, R92, R94). -/
def Obligations.DecodeAfterEncodeIsIdentity : Prop := ∀ i : Instr, i.WellFormed → decodeWord (encode i) = i

/-- Encoding what a word decodes to gives the word back with exactly the fields its command ignores set to 0: `addr` unless
op is READ or WRITE, `data` unless op is WRITE (R90). -/
def Obligations.EncodeAfterDecodeClearsIgnoredFields : Prop :=
  ∀ w : Command,
    encode (decodeWord w) =
      word (w.toNat / 2 ^ 40) (if w.toNat / 2 ^ 40 ≤ 1 then w.toNat / 2 ^ 8 % 2 ^ 32 else 0)
        (if w.toNat / 2 ^ 40 = 1 then w.toNat % 2 ^ 8 else 0)

/-- The fields a command ignores do not change what it decodes to: `data` of READ, `addr` and `data` of STEP, ACK and RESET
(R90). -/
def Obligations.IgnoredFieldsChangeNothing : Prop :=
  ∀ (a a' : PortAddr) (d d' : Byte),
    decodeWord (word 0 a.toNat d.toNat) = decodeWord (word 0 a.toNat d'.toNat) ∧
    ∀ op, 2 ≤ op → op ≤ 4 → decodeWord (word op a.toNat d.toNat) = decodeWord (word op a'.toNat d'.toNat)

/-- The opcode table's rows of match and mask, tried in order, and the decode map of R92 give every word the same mnemonic
(R99). -/
def Obligations.OpcodeTableAgreesWithDecodeMap : Prop :=
  ∀ w : Command, tableMnemonic w = some (decodeWord w).mnemonic

/-! ## Register access -/

/-- READ of a byte of each voice register returns bits [8k+7:8k] of that register of that voice and changes nothing else
(R120, R123, R125, R127, R129, R131, R133, R135). -/
def Obligations.VoiceRegisterReads : Prop :=
  ∀ v : Fin voiceCount,
    ReadsRegister (0x1C00 + 16 * v) (.rdVoll v) (fun s => (s.voice v).volL) ∧
    ReadsRegister (0x1C00 + 16 * v + 2) (.rdVolr v) (fun s => (s.voice v).volR) ∧
    ReadsRegister (0x1C00 + 16 * v + 4) (.rdRate v) (fun s => (s.voice v).rate) ∧
    ReadsRegister (0x1C00 + 16 * v + 6) (.rdStart v) (fun s => (s.voice v).start) ∧
    ReadsRegister (0x1C00 + 16 * v + 8) (.rdAdsrcfg v) (fun s => (s.voice v).adsrCfg) ∧
    ReadsRegister (0x1C00 + 16 * v + 12) (.rdAdsrvol v) (fun s => (s.voice v).adsrVol) ∧
    ReadsRegister (0x1C00 + 16 * v + 14) (.rdRepeat v) (fun s => (s.voice v).repeatAddr)

/-- READ of a byte of each global register with storage and no side effect returns bits [8k+7:8k] of it and changes nothing
else; a read of byte 3 of a key mask commits nothing (R120, R137 to R149, R161, R164, R181 to R189). -/
def Obligations.GlobalRegisterReads : Prop :=
  ReadsRegister 0x1D80 .rdMvoll (·.mvolL) ∧
  ReadsRegister 0x1D82 .rdMvolr (·.mvolR) ∧
  ReadsRegister 0x1D84 .rdRvoll (·.rvolL) ∧
  ReadsRegister 0x1D86 .rdRvolr (·.rvolR) ∧
  ReadsRegister 0x1D98 .rdChrvb (·.chrvb) ∧
  ReadsRegister 0x1DB0 .rdCdvoll (·.cdvolL) ∧
  ReadsRegister 0x1DB2 .rdCdvolr (·.cdvolR) ∧
  ReadsRegister 0x1DA4 .rdIrqa (·.irqa) ∧
  ReadsRegister 0x1DA6 .rdStga (·.stga) ∧
  ReadsRegister 0x1DAA .rdCtrl (·.ctrl) ∧
  ReadsRegister 0x1DAC .rdXfer (·.xfer) ∧
  ReadsRegister 0x1D88 .rdKon (·.kon) ∧
  ReadsRegister 0x1D8C .rdKoff (·.koff)

/-- WRITE of a byte to a voice register without a side effect replaces bits [8k+7:8k] of it, whatever the byte, and changes
nothing else (R121, R124, R126, R128, R132, R134, R136). -/
def Obligations.VoiceRegisterWrites : Prop :=
  ∀ v : Fin voiceCount,
    WritesVoiceRegister (0x1C00 + 16 * v) v (.wrVoll v) (·.volL) (fun x r => { x with volL := r }) ∧
    WritesVoiceRegister (0x1C00 + 16 * v + 2) v (.wrVolr v) (·.volR) (fun x r => { x with volR := r }) ∧
    WritesVoiceRegister (0x1C00 + 16 * v + 4) v (.wrRate v) (·.rate) (fun x r => { x with rate := r }) ∧
    WritesVoiceRegister (0x1C00 + 16 * v + 8) v (.wrAdsrcfg v) (·.adsrCfg) (fun x r => { x with adsrCfg := r }) ∧
    WritesVoiceRegister (0x1C00 + 16 * v + 12) v (.wrAdsrvol v) (·.adsrVol) (fun x r => { x with adsrVol := r }) ∧
    WritesVoiceRegister (0x1C00 + 16 * v + 14) v (.wrRepeat v) (·.repeatAddr) (fun x r => { x with repeatAddr := r })

/-- WRITE of a byte to the start address replaces that byte and sets the voice's position to 0, on either byte, playing or
not; `cur`, `repeat`, the cache and the rest keep their values (R130). -/
def Obligations.StartWriteResetsPosition : Prop :=
  ∀ v : Fin voiceCount,
    WritesVoiceRegister (0x1C00 + 16 * v + 6) v (.wrStart v) (·.start) (fun x r => { x with start := r, subPos := 0 })

/-- WRITE of a byte to a global register without a side effect replaces bits [8k+7:8k] of it, whatever the byte, and changes
nothing else; byte 3 of the channel-reverb mask commits nothing (R121, R138 to R150, R182, R188, R190, R195). -/
def Obligations.GlobalRegisterWrites : Prop :=
  WritesRegister 0x1D80 .wrMvoll (·.mvolL) (fun s r => { s with mvolL := r }) ∧
  WritesRegister 0x1D82 .wrMvolr (·.mvolR) (fun s r => { s with mvolR := r }) ∧
  WritesRegister 0x1D84 .wrRvoll (·.rvolL) (fun s r => { s with rvolL := r }) ∧
  WritesRegister 0x1D86 .wrRvolr (·.rvolR) (fun s r => { s with rvolR := r }) ∧
  WritesRegister 0x1D98 .wrChrvb (·.chrvb) (fun s r => { s with chrvb := r }) ∧
  WritesRegister 0x1DB0 .wrCdvoll (·.cdvolL) (fun s r => { s with cdvolL := r }) ∧
  WritesRegister 0x1DB2 .wrCdvolr (·.cdvolR) (fun s r => { s with cdvolR := r }) ∧
  WritesRegister 0x1DA4 .wrIrqa (·.irqa) (fun s r => { s with irqa := r }) ∧
  WritesRegister 0x1DAA .wrCtrl (·.ctrl) (fun s r => { s with ctrl := r }) ∧
  WritesRegister 0x1DAC .wrXfer (·.xfer) (fun s r => { s with xfer := r }) ∧
  WritesRegister 0x1DAE .wrStat (·.stat) (fun s r => { s with stat := r })

/-- At every address no register decodes, READ returns 0 and WRITE does nothing (R151, R152). -/
def Obligations.UnmappedAddressesReadZeroAndIgnoreWrites : Prop :=
  ∀ a : PortAddr, ¬ InMap a.toNat →
    ReadWord a.toNat (.rdUnmapped a) ∧ (∀ s, Returns (.rdUnmapped a) s 0) ∧
    ∀ b, WriteWord a.toNat b (.wrUnmapped a b) ∧ ∀ s, exec (.wrUnmapped a b) s = .next { s with rdata := none }

/-- Every register with storage reads back, byte by byte, what was written to it byte by byte: the key masks too, whose
commits do not clear them, and bits [15:6] of the status word (R154). -/
def Obligations.RegistersRoundTrip : Prop :=
  (∀ v : Fin voiceCount,
    RoundTrips16 (.wrVoll v) (.rdVoll v) ∧
    RoundTrips16 (.wrVolr v) (.rdVolr v) ∧
    RoundTrips16 (.wrRate v) (.rdRate v) ∧
    RoundTrips16 (.wrStart v) (.rdStart v) ∧
    RoundTrips32 (.wrAdsrcfg v) (.rdAdsrcfg v) ∧
    RoundTrips16 (.wrAdsrvol v) (.rdAdsrvol v) ∧
    RoundTrips16 (.wrRepeat v) (.rdRepeat v)) ∧
  RoundTrips16 .wrMvoll .rdMvoll ∧
  RoundTrips16 .wrMvolr .rdMvolr ∧
  RoundTrips16 .wrRvoll .rdRvoll ∧
  RoundTrips16 .wrRvolr .rdRvolr ∧
  RoundTrips32 .wrChrvb .rdChrvb ∧
  RoundTrips16 .wrCdvoll .rdCdvoll ∧
  RoundTrips16 .wrCdvolr .rdCdvolr ∧
  RoundTrips16 .wrIrqa .rdIrqa ∧
  RoundTrips16 .wrStga .rdStga ∧
  RoundTrips16 .wrCtrl .rdCtrl ∧
  RoundTrips16 .wrXfer .rdXfer ∧
  RoundTrips32 writeKon .rdKon ∧
  RoundTrips32 writeKoff .rdKoff ∧
  (∀ (s : State) (b : Byte), ∃ t u, exec (.wrStat 1 b) s = .next t ∧ exec (.rdStat 1) t = .next u ∧ u.rdata = some b) ∧
  ∀ (s : State) (b : Byte), ∃ t u c, exec (.wrStat 0 b) s = .next t ∧ exec (.rdStat 0) t = .next u ∧ u.rdata = some c ∧
    c.getLsbD 6 = b.getLsbD 6 ∧ c.getLsbD 7 = b.getLsbD 7

/-! ## The key masks -/

/-- WRITE of byte 0, 1 or 2 of a key mask stores the byte and starts or stops no voice (R162, R165). -/
def Obligations.KeyMaskLowBytesOnlyStore : Prop :=
  WritesRegister 0x1D88 .wrKon (·.kon) (fun s r => { s with kon := r }) ∧
  WritesRegister 0x1D8C .wrKoff (·.koff) (fun s r => { s with koff := r })

/-- WRITE of byte 3 of the key-on mask stores the byte and keys on exactly the voices whose bit of the whole mask is then 1,
whatever they did before; every other voice, the mask and everything else keep their values (R163, R170). -/
def Obligations.KeyOnCommitStartsTheSelectedVoices : Prop :=
  ∀ b : Byte, WriteWord 0x1D8B b (.wrKonCommit b) ∧
    ∀ s, ∃ r t, ByteReplaced s.kon r 3 b ∧ exec (.wrKonCommit b) s = .next t ∧
      t = { s with kon := r, voices := t.voices, rdata := none } ∧
      ∀ v : Fin voiceCount, t.voice v = if r.getLsbD v then keyedOn (s.voice v) else s.voice v

/-- WRITE of byte 3 of the key-off mask stores the byte and makes Idle exactly the voices whose bit of the whole mask is then
1, with nothing else of them changed; everything else keeps its value (R166, R171). -/
def Obligations.KeyOffCommitStopsTheSelectedVoices : Prop :=
  ∀ b : Byte, WriteWord 0x1D8F b (.wrKoffCommit b) ∧
    ∀ s, ∃ r t, ByteReplaced s.koff r 3 b ∧ exec (.wrKoffCommit b) s = .next t ∧
      t = { s with koff := r, voices := t.voices, rdata := none } ∧
      ∀ v : Fin voiceCount, t.voice v = if r.getLsbD v then { s.voice v with playing := false } else s.voice v

/-- The four writes of the pseudo-instruction `kon M` leave the mask M and key on exactly the voices of M, whatever the mask
held before (R101, R174). -/
def Obligations.KonPseudoStartsExactlyItsSet : Prop :=
  ∀ (m : Reg32) (s : State), ∃ t, RunsTo s (assemble (.kon m)) t ∧
    t = { s with kon := m, voices := t.voices, rdata := none, pending := [] } ∧
    ∀ v : Fin voiceCount, t.voice v = if m.getLsbD v then keyedOn (s.voice v) else s.voice v

/-! ## The staging path and the status word -/

/-- WRITE of a byte of the staging address replaces that byte and reloads the cursor with 8 times the new value, modulo the
memory's size, on either byte (R184). -/
def Obligations.StagingAddressWriteReloadsCursor : Prop :=
  ∀ (k : Fin 2) (b : Byte), WriteWord (0x1DA6 + k) b (.wrStga k b) ∧
    ∀ s, ∃ r c, ByteReplaced s.stga r k b ∧ c.toNat = 8 * r.toNat % 0x80000 ∧
      exec (.wrStga k b) s = .next { s with stga := r, scur := c, rdata := none }

/-- READ of either staging FIFO address returns 0 and changes nothing else: the cursor does not move (R185). -/
def Obligations.FifoReadReturnsZero : Prop :=
  ∀ k : Fin 2, ReadWord (0x1DA8 + k) (.rdFifo k) ∧ ∀ s, Returns (.rdFifo k) s 0

/-- WRITE of either staging FIFO address advances the cursor by one modulo the memory's size and changes nothing but memory,
where the byte at the old cursor becomes b and every other byte reads as before (R186). -/
def Obligations.FifoWriteStoresAtTheCursor : Prop :=
  ∀ (k : Fin 2) (b : Byte), WriteWord (0x1DA8 + k) b (.wrFifo k b) ∧
    ∀ s, ∃ m c, exec (.wrFifo k b) s = .next { s with mem := m, scur := c, rdata := none } ∧
      c.toNat = (s.scur.toNat + 1) % 0x80000 ∧
      (MemoryCanonical s → ∀ a,
        memRead params m a = if a % 0x80000 = s.scur.toNat then b else memRead params s.mem a)

/-- READ of either status byte sets bits [5:0] of the status word to those of the control word, keeps its bits [15:6],
returns the byte, and changes nothing else (R194). -/
def Obligations.StatusReadMirrorsControl : Prop :=
  ∀ k : Fin 2, ReadWord (0x1DAE + k) (.rdStat k) ∧
    ∀ s, ∃ st : Reg16, (∀ j, j < 16 → st.getLsbD j = if j < 6 then s.ctrl.getLsbD j else s.stat.getLsbD j) ∧
      exec (.rdStat k) s = .next { s with stat := st, rdata := some (byteOf st k) }

/-- The `load` sequence writes its bytes, in order, from the address unit on, wrapping at the end of memory; every other byte,
every voice and every register but the staging address keep their values (R101, R196). For loads of up to 0x80000 bytes: in a
longer one later bytes overwrite earlier ones. -/
def Obligations.LoadSequenceFillsMemory : Prop :=
  ∀ (u : Reg16) (bytes : List Byte) (s : State), MemoryCanonical s → bytes.length ≤ 0x80000 →
    ∃ t, RunsTo s (assemble (.load u bytes)) t ∧
      t = { s with stga := u, scur := t.scur, mem := t.mem, rdata := none, pending := [] } ∧
      t.scur.toNat = (8 * u.toNat + bytes.length) % 0x80000 ∧
      (∀ i, i < bytes.length → memoryByte t (8 * u.toNat + i) = bytes.getD i 0) ∧
      ∀ a, (∀ i, i < bytes.length → a % 0x80000 ≠ (8 * u.toNat + i) % 0x80000) → memoryByte t a = memoryByte s a

/-! ## STEP: the voices -/

/-- STEP changes the voices, the output buffer, the write index, the ready flag and what is returned, and nothing else: no
global register, no byte of memory. Of a voice it changes none of the registers but `repeat` (R200, R201). -/
def Obligations.StepChangesOnlyVoicesAndOutput : Prop :=
  ∀ (a : PortAddr) (d : Byte), decodeWord (word 2 a.toNat d.toNat) = .step ∧
    ∀ s, ∃ t, exec .step s = .next t ∧
      t = { s with voices := t.voices, out := t.out, wp := t.wp, ready := t.ready, rdata := none } ∧
      ∀ v : Fin voiceCount,
        t.voice v = { t.voice v with
          volL := (s.voice v).volL, volR := (s.voice v).volR, rate := (s.voice v).rate, start := (s.voice v).start,
          adsrCfg := (s.voice v).adsrCfg, adsrVol := (s.voice v).adsrVol }

/-- The tick of an Idle voice emits nothing and changes nothing, but that it clears the cache where the parameter says so; the
parameter's decided value is false, so STEP leaves an Idle voice as it is (R202). -/
def Obligations.StepLeavesIdleVoicesAlone : Prop :=
  (∀ (P : Params) (m : Memory) (x : Voice), x.playing = false →
    voiceTick P m x = (⟨false, 0⟩, { x with cacheValid := x.cacheValid && !P.idleTickClearsCache })) ∧
  params.idleTickClearsCache = false ∧
  ∀ (s : State) (v : Fin voiceCount), (s.voice v).playing = false →
    ∃ t, exec .step s = .next t ∧ t.voice v = s.voice v

/-- A STEP of a playing voice with an empty cache decodes the 16 bytes of its current block with its history, and keeps the
samples and the history the decoder returns; with a valid cache it keeps the cached samples and the history (R203). -/
def Obligations.StepRefillsOnlyAnEmptyCache : Prop :=
  ∀ (s : State) (v : Fin voiceCount), (s.voice v).playing = true →
    ∃ t, exec .step s = .next t ∧
      ((s.voice v).cacheValid = false →
        ((t.voice v).cache, (t.voice v).hist) = Config.decode (blockOf s v) (s.voice v).hist) ∧
      ((s.voice v).cacheValid = true →
        (t.voice v).cache = (s.voice v).cache ∧ (t.voice v).hist = (s.voice v).hist)

/-- A STEP of a playing voice whose sample index does not change moves the position and does nothing else but the refill: no
boundary is checked and no flag is read (R205, R206). -/
def Obligations.StepWithinASampleOnlyMoves : Prop :=
  ∀ (s : State) (v : Fin voiceCount), (s.voice v).playing = true → nextPosition s v / 4096 = sampleIndex s v →
    ∃ t, exec .step s = .next t ∧
      t.voice v = { s.voice v with
        cache := playedCache s v, hist := playedHist s v, cacheValid := true,
        subPos := BitVec.ofNat 17 (nextPosition s v) }

/-- A STEP of a playing voice that leaves its block subtracts 28 samples from the position, advances the current address by
2 modulo 2^16 and empties the cache, without reading a flag (R207). -/
def Obligations.StepCrossesIntoTheNextBlock : Prop :=
  ∀ (s : State) (v : Fin voiceCount), (s.voice v).playing = true → nextPosition s v / 4096 ≠ sampleIndex s v →
    0x1C000 ≤ nextPosition s v →
    ∃ t, exec .step s = .next t ∧
      t.voice v = { s.voice v with
        cache := playedCache s v, hist := playedHist s v, cacheValid := false,
        subPos := BitVec.ofNat 17 (nextPosition s v - 0x1C000),
        cur := BitVec.ofNat 16 ((s.voice v).cur.toNat + 2) }

/-- A STEP of a playing voice whose sample index changes inside its block reads the flag byte from memory as it is: loop start
makes the current block the repeat point, then loop end moves to the repeat point and stops the voice; the other flag bits
have no effect (R208, R209, R210). -/
def Obligations.StepObeysTheLoopFlags : Prop :=
  ∀ (s : State) (v : Fin voiceCount), (s.voice v).playing = true → nextPosition s v / 4096 ≠ sampleIndex s v →
    nextPosition s v < 0x1C000 →
    ∃ t, exec .step s = .next t ∧
      t.voice v = { s.voice v with
        cache := playedCache s v, hist := playedHist s v, cacheValid := true,
        subPos := BitVec.ofNat 17 (nextPosition s v),
        repeatAddr := if (flagsOf s v).getLsbD 2 then (s.voice v).cur else (s.voice v).repeatAddr,
        cur := if (flagsOf s v).getLsbD 0 ∧ ¬ (flagsOf s v).getLsbD 2 then (s.voice v).repeatAddr else (s.voice v).cur,
        playing := !(flagsOf s v).getLsbD 0 }

/-- A voice after STEP depends on that voice and on voice memory only, not on another voice or a register (R86, R201). -/
def Obligations.VoicesDoNotInfluenceEachOther : Prop :=
  ∀ (s s' : State) (v : Fin voiceCount), (∀ a, memoryByte s a = memoryByte s' a) → s.voice v = s'.voice v →
    ∃ t t', exec .step s = .next t ∧ exec .step s' = .next t' ∧ t.voice v = t'.voice v

/-- From the start of a block at unity rate, n ticks up to 27 advance the position by n samples in the same block, and the
28th crosses into the next block with the position at 0 and the cache empty, as long as the block carries no loop end
(R213). -/
def Obligations.UnityRateConsumesABlockInTwentyEightTicks : Prop :=
  ∀ (s : State) (v : Fin voiceCount), (s.voice v).playing = true → 0x1000 ≤ (s.voice v).rate.toNat →
    (s.voice v).subPos = 0 → (flagsOf s v).getLsbD 0 = false →
    ∀ n, n ≤ 28 → ∃ t, RunsTo s (assemble (.steps n)) t ∧ (t.voice v).playing = true ∧
      if n < 28 then (t.voice v).subPos.toNat = n * 0x1000 ∧ (t.voice v).cur = (s.voice v).cur
      else (t.voice v).subPos = 0 ∧ (t.voice v).cur.toNat = ((s.voice v).cur.toNat + 2) % 2 ^ 16 ∧
        (t.voice v).cacheValid = false

/-- At rate 0 a playing voice never moves, reads no flag and never stops by itself, however many ticks pass (R214). -/
def Obligations.RateZeroNeverMoves : Prop :=
  ∀ (s : State) (v : Fin voiceCount), (s.voice v).playing = true → (s.voice v).rate = 0 →
    ∀ n, ∃ t, RunsTo s (assemble (.steps (n + 1))) t ∧
      t.voice v = { s.voice v with cache := playedCache s v, hist := playedHist s v, cacheValid := true }

/-- A voice keyed on while its cache is valid is not decoded afresh: the next tick keeps the cached samples and the history
(R170, R294). -/
def Obligations.RekeyKeepsAStaleCache : Prop :=
  ∀ (s : State) (b : Byte) (v : Fin voiceCount), s.kon.getLsbD v = true → (s.voice v).cacheValid = true →
    ∃ t u, exec (.wrKonCommit b) s = .next t ∧ exec .step t = .next u ∧
      (t.voice v).playing = true ∧ (t.voice v).cur = (s.voice v).start ∧ (t.voice v).subPos = (s.voice v).subPos ∧
      (u.voice v).cache = (s.voice v).cache ∧ (u.voice v).hist = (s.voice v).hist

/-! ## STEP: the mixer and the output buffer -/

/-- The frame STEP appends is, for each side, the sum over the voices of emitted sample times volume, times the main volume,
clamped to [-2^45, 2^45], scaled by 0x7FFF and truncated toward zero, the left value in the first slot; the write index moves
on by 2, and to 0 at `OUT_CAP`. Neither sum exceeds 24 * 2^30 in magnitude in any state, and no value leaves -32767 to 32767
(R242, R243, R244, R245). The frame clause is for states with every position in its block, the write index in the buffer and
the buffer at its capacity, which the invariants of R57 and R52 give. -/
def Obligations.StepMixesOneFrame : Prop :=
  (∀ s, PositionsInBlock s → WriteIndexInBuffer s → BufferHasCapacity s → ∃ t, exec .step s = .next t ∧
    t.out =
      (s.out.set s.wp (BitVec.ofInt 16 (outputValue (sumLeft s) s.mvolL.toInt))).set (s.wp + 1)
        (BitVec.ofInt 16 (outputValue (sumRight s) s.mvolR.toInt)) ∧
    t.wp = (if s.wp + 2 = outCap then 0 else s.wp + 2)) ∧
  (∀ s, |sumLeft s| ≤ 24 * 2 ^ 30 ∧ |sumRight s| ≤ 24 * 2 ^ 30) ∧
  ∀ acc gain, -32767 ≤ outputValue acc gain ∧ outputValue acc gain ≤ 32767

/-- Both samples STEP writes lie in -32767 to 32767: -32768 is never produced (R244). -/
def Obligations.FrameValuesStayInRange : Prop :=
  ∀ s, WriteIndexInBuffer s → BufferHasCapacity s → ∃ t l r, exec .step s = .next t ∧
    t.out[s.wp]? = some l ∧ t.out[s.wp + 1]? = some r ∧
    -32767 ≤ l.toInt ∧ l.toInt ≤ 32767 ∧ -32767 ≤ r.toInt ∧ r.toInt ≤ 32767

/-- STEP advances the write index by 2; where that reaches `OUT_CAP` the index becomes 0 and ready is set, else ready keeps
its value. Every slot but the two written keeps its sample (R245, R246). -/
def Obligations.StepWrapsAndRaisesReady : Prop :=
  ∀ s, ∃ t, exec .step s = .next t ∧
    (s.wp + 2 = outCap → t.wp = 0 ∧ t.ready = true) ∧
    (s.wp + 2 ≠ outCap → t.wp = s.wp + 2 ∧ t.ready = s.ready) ∧
    ∀ i, i ≠ s.wp → i ≠ s.wp + 1 → t.out[i]? = s.out[i]?

/-- With every voice Idle or at both volumes 0, or with both main volumes 0, the frame is (0, 0); it is still appended and
still advances the write index (R247). For states with the write index in the buffer and the buffer at its capacity, which the
invariants of R57 and R52 give. -/
def Obligations.SilentFrameIsStillAppended : Prop :=
  ∀ s, WriteIndexInBuffer s → BufferHasCapacity s →
    (∀ v : Fin voiceCount, (s.voice v).playing = false ∨ ((s.voice v).volL = 0 ∧ (s.voice v).volR = 0)) ∨
      (s.mvolL = 0 ∧ s.mvolR = 0) →
    ∃ t, exec .step s = .next t ∧ t.out = (s.out.set s.wp 0).set (s.wp + 1) 0 ∧
      t.wp = if s.wp + 2 = outCap then 0 else s.wp + 2

/-- n STEPs advance the write index by 2n modulo `OUT_CAP` (R278). -/
def Obligations.StepsAdvanceWriteIndexModuloCapacity : Prop :=
  ∀ (n : Nat) (s : State), WriteIndexInBuffer s →
    ∃ t, RunsTo s (assemble (.steps n)) t ∧ t.wp = (s.wp + 2 * n) % outCap

/-! ## ACK, RESET and the reserved commands -/

/-- ACK clears ready and changes nothing else but that no byte is returned (R253). -/
def Obligations.AckClearsReadyOnly : Prop :=
  ∀ (a : PortAddr) (d : Byte), decodeWord (word 3 a.toNat d.toNat) = .ack ∧
    ∀ s, exec .ack s = .next { s with ready := false, rdata := none }

/-- RESET gives every state element its reset value: every register, cursor, flag and output slot 0, every byte of voice
memory its `MEM_INIT` value (R56, R290). -/
def Obligations.ResetGivesEveryResetValue : Prop :=
  ∀ (a : PortAddr) (d : Byte), decodeWord (word 4 a.toNat d.toNat) = .reset ∧
    ∀ s, ∃ t, exec .reset s = .next t ∧
      (∀ v : Fin voiceCount, t.voice v = resetVoice) ∧
      (t.mvolL = 0 ∧ t.mvolR = 0 ∧ t.rvolL = 0 ∧ t.rvolR = 0 ∧ t.kon = 0 ∧ t.koff = 0 ∧ t.chrvb = 0 ∧ t.irqa = 0 ∧
        t.stga = 0 ∧ t.ctrl = 0 ∧ t.xfer = 0 ∧ t.stat = 0 ∧ t.cdvolL = 0 ∧ t.cdvolR = 0 ∧ t.extvolL = 0 ∧ t.extvolR = 0) ∧
      t.scur = 0 ∧ (∀ n, n < 0x80000 → memoryByte t n = Config.memInit n) ∧
      t.out = List.replicate outCap 0 ∧ t.wp = 0 ∧ t.ready = false

/-- RESET leaves the power-on state, but for the commands the host has already issued, which it keeps (R291; log entry 1). -/
def Obligations.ResetLeavesThePowerOnState : Prop :=
  ∀ s, exec .reset s = .next { State.reset with pending := s.pending }

/-- A word with op 5, 6 or 7 is refused by name, in every state (R95). -/
def Obligations.ReservedCommandsAreRefused : Prop :=
  ∀ op : BitVec 3, 5 ≤ op.toNat → ∀ (a : PortAddr) (d : Byte),
    decodeWord (word op.toNat a.toNat d.toNat) = .reserved op ∧
      ∀ s, exec (.reserved op) s = .refused (.reservedCommand op)

/-- Every READ, WRITE, STEP, ACK and RESET completes, in every state; only a reserved command does not (R270, R277). -/
def Obligations.EveryOperationCompletes : Prop :=
  ∀ (i : Instr) (s : State), (∃ t, exec i s = .next t) ↔ ∀ op, i ≠ .reserved op

/-! ## Invariants and whole-machine rules -/

/-- The reset state is sound: every position inside its block and the write index even and inside the buffer (R57), the
buffer at its capacity (R52), the external-input volume 0 (R49, R56), and voice memory in its canonical form, which is the
model's own choice (log entry 6). -/
def Obligations.ResetStateIsSound : Prop := Sound State.reset

/-- Every step keeps every voice's position inside a block (R57). -/
def Obligations.StepKeepsPositionsInBlock : Prop :=
  ∀ s t, step s = .next t → PositionsInBlock s → PositionsInBlock t

/-- Every step keeps the write index even and inside the buffer, and the buffer at its capacity (R57, R52). -/
def Obligations.StepKeepsWriteIndexInBuffer : Prop :=
  ∀ s t, step s = .next t →
    (WriteIndexInBuffer s → WriteIndexInBuffer t) ∧ (BufferHasCapacity s → BufferHasCapacity t)

/-- Every step keeps voice memory in its canonical form (the model's own form of R51's array, log entry 6). -/
def Obligations.StepKeepsMemoryCanonical : Prop := ∀ s t, step s = .next t → MemoryCanonical s → MemoryCanonical t

/-- Equal bytes at every address make equal memories: the canonical form is a form of the array of R51 (log entry 6). -/
def Obligations.CanonicalMemoryIsItsBytes : Prop :=
  ∀ s t : State, MemoryCanonical s → MemoryCanonical t → (∀ a, memoryByte s a = memoryByte t a) → s.mem = t.mem

/-- The external-input volume holds its reset value for ever: no command but RESET touches it, and RESET writes that value
(R49). -/
def Obligations.ExternalVolumeHoldsItsResetValue : Prop :=
  ∀ s t, step s = .next t →
    (ExternalVolumeStuck s → ExternalVolumeStuck t) ∧
    (¬ (∃ w rest, s.pending = w :: rest ∧ decodeWord w = .reset) → t.extvolL = s.extvolL ∧ t.extvolR = s.extvolR)

/-- From every sound state, every run ends in a sound state or in the refusal of a reserved command: the core has no fault
and no other way to stop (R95, R270). Sound says: positions inside their blocks and the write index inside the buffer (R57),
the buffer at its capacity (R52), the external-input volume 0 (R49), and voice memory in its canonical form, which is the
model's own choice (log entry 6). -/
def Obligations.RunsFromSoundStatesStaySound : Prop :=
  ∀ (n : Nat) (s : State), Sound s →
    (∃ t, Host.Core.run Sys2Proof.core n s = .next t ∧ Sound t) ∨
    ∃ op, Host.Core.run Sys2Proof.core n s = .refused (.reservedCommand op)

/-- Only a staging FIFO write and RESET change voice memory (R73, R290). -/
def Obligations.OnlyFifoWriteAndResetChangeMemory : Prop :=
  ∀ (i : Instr) (s t : State), exec i s = .next t → t.mem ≠ s.mem → i = .reset ∨ ∃ k b, i = .wrFifo k b

/-- Each one-bit flag is set and cleared by the operations the spec names and by no other: `playing` set by a key-on commit
and cleared by a key-off commit or STEP, `cacheValid` set and cleared by STEP, `ready` set by STEP and cleared by ACK; RESET
clears all three (R55). -/
def Obligations.FlagsHaveOnlyTheirWriters : Prop :=
  ∀ (i : Instr) (s t : State) (v : Fin voiceCount), exec i s = .next t →
    ((s.voice v).playing = false → (t.voice v).playing = true → ∃ b, i = .wrKonCommit b) ∧
    ((s.voice v).playing = true → (t.voice v).playing = false → i = .step ∨ i = .reset ∨ ∃ b, i = .wrKoffCommit b) ∧
    ((s.voice v).cacheValid = false → (t.voice v).cacheValid = true → i = .step) ∧
    ((s.voice v).cacheValid = true → (t.voice v).cacheValid = false → i = .step ∨ i = .reset) ∧
    (s.ready = false → t.ready = true → i = .step) ∧
    (s.ready = true → t.ready = false → i = .ack ∨ i = .reset)

/-- A decode cache is invalidated only by RESET and by the block crossing of its own playing voice: not by a key-on, a
key-off, a write to `start` or a loop end (R85). -/
def Obligations.OnlyACrossingOrResetEmptiesACache : Prop :=
  ∀ (i : Instr) (s t : State) (v : Fin voiceCount), exec i s = .next t → (s.voice v).cacheValid = true →
    (t.voice v).cacheValid = false →
    i = .reset ∨ (i = .step ∧ (s.voice v).playing = true ∧ 0x1C000 ≤ nextPosition s v)
end

