-- ==== Sys2Proof/Laws/Decode.lean ====
section
/-! SUPPORT. The fields of a command word put together and taken apart again (R90), and the decoder by its op (R99). -/

namespace Sys2Proof

theorem commandWord_toNat (op : BitVec 3) (addr : PortAddr) (data : Byte) :
    (commandWord op addr data).toNat = op.toNat * 2 ^ 40 + addr.toNat * 2 ^ 8 + data.toNat := by
  have h1 := addr.isLt
  have h2 := data.isLt
  simp only [commandWord, BitVec.toNat_append]
  rw [← Nat.shiftLeft_add_eq_or_of_lt h2, ← Nat.shiftLeft_add_eq_or_of_lt h1, Nat.shiftLeft_eq, Nat.shiftLeft_eq]
  ring

@[simp] theorem opField_commandWord (op : BitVec 3) (addr : PortAddr) (data : Byte) :
    opField (commandWord op addr data) = op := by
  apply BitVec.eq_of_toNat_eq
  have h1 := addr.isLt
  have h2 := data.isLt
  have h3 := op.isLt
  simp only [opField, BitVec.extractLsb'_toNat, commandWord_toNat, Nat.shiftRight_eq_div_pow]
  omega

@[simp] theorem addrField_commandWord (op : BitVec 3) (addr : PortAddr) (data : Byte) :
    addrField (commandWord op addr data) = addr := by
  apply BitVec.eq_of_toNat_eq
  have h1 := addr.isLt
  have h2 := data.isLt
  have h3 := op.isLt
  simp only [addrField, BitVec.extractLsb'_toNat, commandWord_toNat, Nat.shiftRight_eq_div_pow]
  omega

@[simp] theorem dataField_commandWord (op : BitVec 3) (addr : PortAddr) (data : Byte) :
    dataField (commandWord op addr data) = data := by
  apply BitVec.eq_of_toNat_eq
  have h1 := addr.isLt
  have h2 := data.isLt
  have h3 := op.isLt
  simp only [dataField, BitVec.extractLsb'_toNat, commandWord_toNat, Nat.shiftRight_eq_div_pow]
  omega

/-- Every command word is the word of its three fields (R90). -/
theorem commandWord_fields (w : Command) : commandWord (opField w) (addrField w) (dataField w) = w := by
  apply BitVec.eq_of_toNat_eq
  have h := w.isLt
  rw [commandWord_toNat]
  simp only [opField, addrField, dataField, BitVec.extractLsb'_toNat, Nat.shiftRight_eq_div_pow]
  omega

/-- With a bias of 0 the port address is the `addr` field (R91). -/
@[simp] theorem portAddress_eq (a : PortAddr) : portAddress a = a := by simp [portAddress, windowBias]

@[simp] theorem busAddress_eq (a : PortAddr) : busAddress a = a := by simp [busAddress, windowBias]

/-- A READ word decodes to the READ of what its address names. -/
theorem decodeWord_read (a : PortAddr) (d : Byte) : decodeWord (commandWord 0 a d) = (decodePort a).readInstr := by
  simp [decodeWord]

/-- A WRITE word decodes to the WRITE of its data to what its address names. -/
theorem decodeWord_write (a : PortAddr) (d : Byte) : decodeWord (commandWord 1 a d) = (decodePort a).writeInstr d := by
  simp [decodeWord]

/-- In the voice range the decode map gives byte r of voice v (R93). -/
theorem decodePort_voice (a : PortAddr) (v : Fin 24) (r : Fin 16) (h : a.toNat = 0x1C00 + 16 * v.val + r.val) :
    decodePort a = voicePort v r := by
  have hv := v.isLt
  have hr := r.isLt
  have hrange : 0x1C00 ≤ a.toNat ∧ a.toNat < 0x1D80 := by omega
  have e1 : (⟨(a.toNat - 0x1C00) / 16, by omega⟩ : Fin 24) = v := by apply Fin.ext; simp only; omega
  have e2 : (⟨(a.toNat - 0x1C00) % 16, by omega⟩ : Fin 16) = r := by apply Fin.ext; simp only; omega
  have e : decodePort a =
      voicePort ⟨(a.toNat - 0x1C00) / 16, by omega⟩ ⟨(a.toNat - 0x1C00) % 16, by omega⟩ := dif_pos hrange
  rw [e, e1, e2]

theorem voicePort_volL (v : Fin 24) (k : Fin 2) : voicePort v ⟨k.val, by omega⟩ = .volL v k := by
  revert k; simp only [voicePort]; decide +revert

theorem voicePort_volR (v : Fin 24) (k : Fin 2) : voicePort v ⟨2 + k.val, by omega⟩ = .volR v k := by
  revert k; simp only [voicePort]; decide +revert

theorem voicePort_rate (v : Fin 24) (k : Fin 2) : voicePort v ⟨4 + k.val, by omega⟩ = .rate v k := by
  revert k; simp only [voicePort]; decide +revert

theorem voicePort_start (v : Fin 24) (k : Fin 2) : voicePort v ⟨6 + k.val, by omega⟩ = .start v k := by
  revert k; simp only [voicePort]; decide +revert

theorem voicePort_adsrCfg (v : Fin 24) (k : Fin 4) : voicePort v ⟨8 + k.val, by omega⟩ = .adsrCfg v k := by
  revert k; simp only [voicePort]; decide +revert

theorem voicePort_adsrVol (v : Fin 24) (k : Fin 2) : voicePort v ⟨12 + k.val, by omega⟩ = .adsrVol v k := by
  revert k; simp only [voicePort]; decide +revert

theorem voicePort_repeatAddr (v : Fin 24) (k : Fin 2) : voicePort v ⟨14 + k.val, by omega⟩ = .repeatAddr v k := by
  revert k; simp only [voicePort]; decide +revert

/-! Each row of R92 for the global registers. -/

theorem decodePort_mvolL (k : Fin 2) : decodePort (BitVec.ofNat 32 (0x1D80 + k.val)) = .mvolL k := by
  decide +revert

theorem decodePort_mvolR (k : Fin 2) : decodePort (BitVec.ofNat 32 (0x1D82 + k.val)) = .mvolR k := by
  decide +revert

theorem decodePort_rvolL (k : Fin 2) : decodePort (BitVec.ofNat 32 (0x1D84 + k.val)) = .rvolL k := by
  decide +revert

theorem decodePort_rvolR (k : Fin 2) : decodePort (BitVec.ofNat 32 (0x1D86 + k.val)) = .rvolR k := by
  decide +revert

theorem decodePort_kon (k : Fin 3) : decodePort (BitVec.ofNat 32 (0x1D88 + k.val)) = .kon k := by
  decide +revert

theorem decodePort_konHigh : decodePort 0x1D8B = .konHigh := by decide

theorem decodePort_koff (k : Fin 3) : decodePort (BitVec.ofNat 32 (0x1D8C + k.val)) = .koff k := by
  decide +revert

theorem decodePort_koffHigh : decodePort 0x1D8F = .koffHigh := by decide

/-- The READ of every byte of the key-on mask, the last one too. -/
theorem decodePort_kon_read (k : Fin 4) : (decodePort (BitVec.ofNat 32 (0x1D88 + k.val))).readInstr = .rdKon k := by
  decide +revert

/-- The READ of every byte of the key-off mask, the last one too. -/
theorem decodePort_koff_read (k : Fin 4) : (decodePort (BitVec.ofNat 32 (0x1D8C + k.val))).readInstr = .rdKoff k := by
  decide +revert

theorem decodePort_chrvb (k : Fin 4) : decodePort (BitVec.ofNat 32 (0x1D98 + k.val)) = .chrvb k := by
  decide +revert

theorem decodePort_irqa (k : Fin 2) : decodePort (BitVec.ofNat 32 (0x1DA4 + k.val)) = .irqa k := by
  decide +revert

theorem decodePort_stga (k : Fin 2) : decodePort (BitVec.ofNat 32 (0x1DA6 + k.val)) = .stga k := by
  decide +revert

theorem decodePort_fifo (k : Fin 2) : decodePort (BitVec.ofNat 32 (0x1DA8 + k.val)) = .fifo k := by
  decide +revert

theorem decodePort_ctrl (k : Fin 2) : decodePort (BitVec.ofNat 32 (0x1DAA + k.val)) = .ctrl k := by
  decide +revert

theorem decodePort_xfer (k : Fin 2) : decodePort (BitVec.ofNat 32 (0x1DAC + k.val)) = .xfer k := by
  decide +revert

theorem decodePort_stat (k : Fin 2) : decodePort (BitVec.ofNat 32 (0x1DAE + k.val)) = .stat k := by
  decide +revert

theorem decodePort_cdvolL (k : Fin 2) : decodePort (BitVec.ofNat 32 (0x1DB0 + k.val)) = .cdvolL k := by
  decide +revert

theorem decodePort_cdvolR (k : Fin 2) : decodePort (BitVec.ofNat 32 (0x1DB2 + k.val)) = .cdvolR k := by
  decide +revert

/-- Every address outside the mapped ranges falls to row 25 (R92). -/
theorem decodePort_unmapped (a : PortAddr) (h : mappedAddress a = false) : decodePort a = .unmapped a := by
  simp only [mappedAddress, Bool.or_eq_false_iff, Bool.and_eq_false_iff, decide_eq_false_iff_not] at h
  unfold decodePort
  repeat first | rw [dif_neg (by omega)] | rw [if_neg (by omega)]

/-! ## The address of what a port address names -/

/-- The port address a row of R92 and its operands come from. -/
def Port.address (p : Port) : PortAddr :=
  match p with
  | .volL v k => voiceAddress v k.val
  | .volR v k => voiceAddress v (2 + k.val)
  | .rate v k => voiceAddress v (4 + k.val)
  | .start v k => voiceAddress v (6 + k.val)
  | .adsrCfg v k => voiceAddress v (8 + k.val)
  | .adsrVol v k => voiceAddress v (12 + k.val)
  | .repeatAddr v k => voiceAddress v (14 + k.val)
  | .mvolL k => BitVec.ofNat 32 (0x1D80 + k.val)
  | .mvolR k => BitVec.ofNat 32 (0x1D82 + k.val)
  | .rvolL k => BitVec.ofNat 32 (0x1D84 + k.val)
  | .rvolR k => BitVec.ofNat 32 (0x1D86 + k.val)
  | .kon k => BitVec.ofNat 32 (0x1D88 + k.val)
  | .konHigh => 0x1D8B
  | .koff k => BitVec.ofNat 32 (0x1D8C + k.val)
  | .koffHigh => 0x1D8F
  | .chrvb k => BitVec.ofNat 32 (0x1D98 + k.val)
  | .irqa k => BitVec.ofNat 32 (0x1DA4 + k.val)
  | .stga k => BitVec.ofNat 32 (0x1DA6 + k.val)
  | .fifo k => BitVec.ofNat 32 (0x1DA8 + k.val)
  | .ctrl k => BitVec.ofNat 32 (0x1DAA + k.val)
  | .xfer k => BitVec.ofNat 32 (0x1DAC + k.val)
  | .stat k => BitVec.ofNat 32 (0x1DAE + k.val)
  | .cdvolL k => BitVec.ofNat 32 (0x1DB0 + k.val)
  | .cdvolR k => BitVec.ofNat 32 (0x1DB2 + k.val)
  | .unmapped a => a

theorem voicePort_address (v : Fin 24) (r : Fin 16) : (voicePort v r).address = voiceAddress v r.val := by
  decide +revert

theorem decodePort_address_global (k : Fin 52) :
    (decodePort (BitVec.ofNat 32 (0x1D80 + k.val))).address = BitVec.ofNat 32 (0x1D80 + k.val) := by
  decide +revert

theorem decodePort_mapped_global (k : Fin 52) (h : mappedAddress (BitVec.ofNat 32 (0x1D80 + k.val)) = true) (x : PortAddr) :
    decodePort (BitVec.ofNat 32 (0x1D80 + k.val)) ≠ .unmapped x := by
  have all : ∀ k : Fin 52, mappedAddress (BitVec.ofNat 32 (0x1D80 + k.val)) = true →
      (match decodePort (BitVec.ofNat 32 (0x1D80 + k.val)) with | .unmapped _ => false | _ => true) = true := by
    decide
  have := all k h
  intro hx
  rw [hx] at this
  cases this

theorem voicePort_mapped (v : Fin 24) (r : Fin 16) (x : PortAddr) : voicePort v r ≠ .unmapped x := by
  unfold voicePort
  split_ifs <;> exact Port.noConfusion

/-- A mapped address is a voice's byte or one of the 52 addresses from the main volume on (R70). -/
theorem mappedAddress_cases (a : PortAddr) (h : mappedAddress a = true) :
    (∃ (v : Fin 24) (r : Fin 16), a = voiceAddress v r.val) ∨ ∃ k : Fin 52, a = BitVec.ofNat 32 (0x1D80 + k.val) := by
  simp only [mappedAddress, Bool.or_eq_true, Bool.and_eq_true, decide_eq_true_eq] at h
  by_cases hv : a.toNat < 0x1D80
  · refine .inl ⟨⟨(a.toNat - 0x1C00) / 16, by omega⟩, ⟨(a.toNat - 0x1C00) % 16, by omega⟩, ?_⟩
    apply BitVec.eq_of_toNat_eq
    simp only [voiceAddress, BitVec.toNat_ofNat]
    omega
  · refine .inr ⟨⟨a.toNat - 0x1D80, by omega⟩, ?_⟩
    apply BitVec.eq_of_toNat_eq
    simp only [BitVec.toNat_ofNat]
    omega

theorem decodePort_voiceAddress (v : Fin 24) (r : Fin 16) : decodePort (voiceAddress v r.val) = voicePort v r := by
  have hv := v.isLt
  have hr := r.isLt
  apply decodePort_voice
  simp only [voiceAddress, BitVec.toNat_ofNat]
  omega

/-- What an address names remembers the address: no bit of it is dropped (R92). -/
theorem decodePort_address (a : PortAddr) : (decodePort a).address = a := by
  by_cases h : mappedAddress a = true
  · rcases mappedAddress_cases a h with ⟨v, r, rfl⟩ | ⟨k, rfl⟩
    · rw [decodePort_voiceAddress, voicePort_address]
    · exact decodePort_address_global k
  · rw [decodePort_unmapped a (by simpa using h)]
    rfl

/-- Only an address outside the map is UNMAPPED (R92 row 25). -/
theorem decodePort_ne_unmapped (a : PortAddr) (h : mappedAddress a = true) (x : PortAddr) : decodePort a ≠ .unmapped x := by
  rcases mappedAddress_cases a h with ⟨v, r, rfl⟩ | ⟨k, rfl⟩
  · rw [decodePort_voiceAddress]
    exact voicePort_mapped v r x
  · exact decodePort_mapped_global k h x

end Sys2Proof
end

