-- ==== Sys2Proof/Laws/State.lean ====
section
/-! SUPPORT. What each named update of the state or of a voice does to each field: one lemma per field per update, so that
no later proof unfolds an update. -/

namespace Sys2Proof.Machine

open Sys2Proof.Config

/-! ## State.setVoice -/

@[simp] theorem State.setVoice_voices (s : State) (v : Fin voiceCount) (x : Voice) : (s.setVoice v x).voices = s.voices.set v.val x v.isLt := rfl
@[simp] theorem State.setVoice_mvolL (s : State) (v : Fin voiceCount) (x : Voice) : (s.setVoice v x).mvolL = s.mvolL := rfl
@[simp] theorem State.setVoice_mvolR (s : State) (v : Fin voiceCount) (x : Voice) : (s.setVoice v x).mvolR = s.mvolR := rfl
@[simp] theorem State.setVoice_rvolL (s : State) (v : Fin voiceCount) (x : Voice) : (s.setVoice v x).rvolL = s.rvolL := rfl
@[simp] theorem State.setVoice_rvolR (s : State) (v : Fin voiceCount) (x : Voice) : (s.setVoice v x).rvolR = s.rvolR := rfl
@[simp] theorem State.setVoice_kon (s : State) (v : Fin voiceCount) (x : Voice) : (s.setVoice v x).kon = s.kon := rfl
@[simp] theorem State.setVoice_koff (s : State) (v : Fin voiceCount) (x : Voice) : (s.setVoice v x).koff = s.koff := rfl
@[simp] theorem State.setVoice_chrvb (s : State) (v : Fin voiceCount) (x : Voice) : (s.setVoice v x).chrvb = s.chrvb := rfl
@[simp] theorem State.setVoice_irqa (s : State) (v : Fin voiceCount) (x : Voice) : (s.setVoice v x).irqa = s.irqa := rfl
@[simp] theorem State.setVoice_stga (s : State) (v : Fin voiceCount) (x : Voice) : (s.setVoice v x).stga = s.stga := rfl
@[simp] theorem State.setVoice_ctrl (s : State) (v : Fin voiceCount) (x : Voice) : (s.setVoice v x).ctrl = s.ctrl := rfl
@[simp] theorem State.setVoice_xfer (s : State) (v : Fin voiceCount) (x : Voice) : (s.setVoice v x).xfer = s.xfer := rfl
@[simp] theorem State.setVoice_stat (s : State) (v : Fin voiceCount) (x : Voice) : (s.setVoice v x).stat = s.stat := rfl
@[simp] theorem State.setVoice_cdvolL (s : State) (v : Fin voiceCount) (x : Voice) : (s.setVoice v x).cdvolL = s.cdvolL := rfl
@[simp] theorem State.setVoice_cdvolR (s : State) (v : Fin voiceCount) (x : Voice) : (s.setVoice v x).cdvolR = s.cdvolR := rfl
@[simp] theorem State.setVoice_extvolL (s : State) (v : Fin voiceCount) (x : Voice) : (s.setVoice v x).extvolL = s.extvolL := rfl
@[simp] theorem State.setVoice_extvolR (s : State) (v : Fin voiceCount) (x : Voice) : (s.setVoice v x).extvolR = s.extvolR := rfl
@[simp] theorem State.setVoice_scur (s : State) (v : Fin voiceCount) (x : Voice) : (s.setVoice v x).scur = s.scur := rfl
@[simp] theorem State.setVoice_mem (s : State) (v : Fin voiceCount) (x : Voice) : (s.setVoice v x).mem = s.mem := rfl
@[simp] theorem State.setVoice_out (s : State) (v : Fin voiceCount) (x : Voice) : (s.setVoice v x).out = s.out := rfl
@[simp] theorem State.setVoice_wp (s : State) (v : Fin voiceCount) (x : Voice) : (s.setVoice v x).wp = s.wp := rfl
@[simp] theorem State.setVoice_ready (s : State) (v : Fin voiceCount) (x : Voice) : (s.setVoice v x).ready = s.ready := rfl
@[simp] theorem State.setVoice_rdata (s : State) (v : Fin voiceCount) (x : Voice) : (s.setVoice v x).rdata = s.rdata := rfl
@[simp] theorem State.setVoice_pending (s : State) (v : Fin voiceCount) (x : Voice) : (s.setVoice v x).pending = s.pending := rfl

/-! ## State.answer -/

@[simp] theorem State.answer_voices (s : State) (b : Byte) : (s.answer b).voices = s.voices := rfl
@[simp] theorem State.answer_mvolL (s : State) (b : Byte) : (s.answer b).mvolL = s.mvolL := rfl
@[simp] theorem State.answer_mvolR (s : State) (b : Byte) : (s.answer b).mvolR = s.mvolR := rfl
@[simp] theorem State.answer_rvolL (s : State) (b : Byte) : (s.answer b).rvolL = s.rvolL := rfl
@[simp] theorem State.answer_rvolR (s : State) (b : Byte) : (s.answer b).rvolR = s.rvolR := rfl
@[simp] theorem State.answer_kon (s : State) (b : Byte) : (s.answer b).kon = s.kon := rfl
@[simp] theorem State.answer_koff (s : State) (b : Byte) : (s.answer b).koff = s.koff := rfl
@[simp] theorem State.answer_chrvb (s : State) (b : Byte) : (s.answer b).chrvb = s.chrvb := rfl
@[simp] theorem State.answer_irqa (s : State) (b : Byte) : (s.answer b).irqa = s.irqa := rfl
@[simp] theorem State.answer_stga (s : State) (b : Byte) : (s.answer b).stga = s.stga := rfl
@[simp] theorem State.answer_ctrl (s : State) (b : Byte) : (s.answer b).ctrl = s.ctrl := rfl
@[simp] theorem State.answer_xfer (s : State) (b : Byte) : (s.answer b).xfer = s.xfer := rfl
@[simp] theorem State.answer_stat (s : State) (b : Byte) : (s.answer b).stat = s.stat := rfl
@[simp] theorem State.answer_cdvolL (s : State) (b : Byte) : (s.answer b).cdvolL = s.cdvolL := rfl
@[simp] theorem State.answer_cdvolR (s : State) (b : Byte) : (s.answer b).cdvolR = s.cdvolR := rfl
@[simp] theorem State.answer_extvolL (s : State) (b : Byte) : (s.answer b).extvolL = s.extvolL := rfl
@[simp] theorem State.answer_extvolR (s : State) (b : Byte) : (s.answer b).extvolR = s.extvolR := rfl
@[simp] theorem State.answer_scur (s : State) (b : Byte) : (s.answer b).scur = s.scur := rfl
@[simp] theorem State.answer_mem (s : State) (b : Byte) : (s.answer b).mem = s.mem := rfl
@[simp] theorem State.answer_out (s : State) (b : Byte) : (s.answer b).out = s.out := rfl
@[simp] theorem State.answer_wp (s : State) (b : Byte) : (s.answer b).wp = s.wp := rfl
@[simp] theorem State.answer_ready (s : State) (b : Byte) : (s.answer b).ready = s.ready := rfl
@[simp] theorem State.answer_rdata (s : State) (b : Byte) : (s.answer b).rdata = some b := rfl
@[simp] theorem State.answer_pending (s : State) (b : Byte) : (s.answer b).pending = s.pending := rfl

/-! ## State.finish -/

@[simp] theorem State.finish_voices (s : State) : s.finish.voices = s.voices := rfl
@[simp] theorem State.finish_mvolL (s : State) : s.finish.mvolL = s.mvolL := rfl
@[simp] theorem State.finish_mvolR (s : State) : s.finish.mvolR = s.mvolR := rfl
@[simp] theorem State.finish_rvolL (s : State) : s.finish.rvolL = s.rvolL := rfl
@[simp] theorem State.finish_rvolR (s : State) : s.finish.rvolR = s.rvolR := rfl
@[simp] theorem State.finish_kon (s : State) : s.finish.kon = s.kon := rfl
@[simp] theorem State.finish_koff (s : State) : s.finish.koff = s.koff := rfl
@[simp] theorem State.finish_chrvb (s : State) : s.finish.chrvb = s.chrvb := rfl
@[simp] theorem State.finish_irqa (s : State) : s.finish.irqa = s.irqa := rfl
@[simp] theorem State.finish_stga (s : State) : s.finish.stga = s.stga := rfl
@[simp] theorem State.finish_ctrl (s : State) : s.finish.ctrl = s.ctrl := rfl
@[simp] theorem State.finish_xfer (s : State) : s.finish.xfer = s.xfer := rfl
@[simp] theorem State.finish_stat (s : State) : s.finish.stat = s.stat := rfl
@[simp] theorem State.finish_cdvolL (s : State) : s.finish.cdvolL = s.cdvolL := rfl
@[simp] theorem State.finish_cdvolR (s : State) : s.finish.cdvolR = s.cdvolR := rfl
@[simp] theorem State.finish_extvolL (s : State) : s.finish.extvolL = s.extvolL := rfl
@[simp] theorem State.finish_extvolR (s : State) : s.finish.extvolR = s.extvolR := rfl
@[simp] theorem State.finish_scur (s : State) : s.finish.scur = s.scur := rfl
@[simp] theorem State.finish_mem (s : State) : s.finish.mem = s.mem := rfl
@[simp] theorem State.finish_out (s : State) : s.finish.out = s.out := rfl
@[simp] theorem State.finish_wp (s : State) : s.finish.wp = s.wp := rfl
@[simp] theorem State.finish_ready (s : State) : s.finish.ready = s.ready := rfl
@[simp] theorem State.finish_rdata (s : State) : s.finish.rdata = none := rfl
@[simp] theorem State.finish_pending (s : State) : s.finish.pending = s.pending := rfl

/-! ## reloadCursor -/

@[simp] theorem reloadCursor_voices (s : State) : (reloadCursor s).voices = s.voices := rfl
@[simp] theorem reloadCursor_mvolL (s : State) : (reloadCursor s).mvolL = s.mvolL := rfl
@[simp] theorem reloadCursor_mvolR (s : State) : (reloadCursor s).mvolR = s.mvolR := rfl
@[simp] theorem reloadCursor_rvolL (s : State) : (reloadCursor s).rvolL = s.rvolL := rfl
@[simp] theorem reloadCursor_rvolR (s : State) : (reloadCursor s).rvolR = s.rvolR := rfl
@[simp] theorem reloadCursor_kon (s : State) : (reloadCursor s).kon = s.kon := rfl
@[simp] theorem reloadCursor_koff (s : State) : (reloadCursor s).koff = s.koff := rfl
@[simp] theorem reloadCursor_chrvb (s : State) : (reloadCursor s).chrvb = s.chrvb := rfl
@[simp] theorem reloadCursor_irqa (s : State) : (reloadCursor s).irqa = s.irqa := rfl
@[simp] theorem reloadCursor_stga (s : State) : (reloadCursor s).stga = s.stga := rfl
@[simp] theorem reloadCursor_ctrl (s : State) : (reloadCursor s).ctrl = s.ctrl := rfl
@[simp] theorem reloadCursor_xfer (s : State) : (reloadCursor s).xfer = s.xfer := rfl
@[simp] theorem reloadCursor_stat (s : State) : (reloadCursor s).stat = s.stat := rfl
@[simp] theorem reloadCursor_cdvolL (s : State) : (reloadCursor s).cdvolL = s.cdvolL := rfl
@[simp] theorem reloadCursor_cdvolR (s : State) : (reloadCursor s).cdvolR = s.cdvolR := rfl
@[simp] theorem reloadCursor_extvolL (s : State) : (reloadCursor s).extvolL = s.extvolL := rfl
@[simp] theorem reloadCursor_extvolR (s : State) : (reloadCursor s).extvolR = s.extvolR := rfl
@[simp] theorem reloadCursor_scur (s : State) : (reloadCursor s).scur = BitVec.ofNat 19 (unitAddress s.stga % voiceMemBytes) := rfl
@[simp] theorem reloadCursor_mem (s : State) : (reloadCursor s).mem = s.mem := rfl
@[simp] theorem reloadCursor_out (s : State) : (reloadCursor s).out = s.out := rfl
@[simp] theorem reloadCursor_wp (s : State) : (reloadCursor s).wp = s.wp := rfl
@[simp] theorem reloadCursor_ready (s : State) : (reloadCursor s).ready = s.ready := rfl
@[simp] theorem reloadCursor_rdata (s : State) : (reloadCursor s).rdata = s.rdata := rfl
@[simp] theorem reloadCursor_pending (s : State) : (reloadCursor s).pending = s.pending := rfl

/-! ## stageByte -/

@[simp] theorem stageByte_voices (P : Params) (b : Byte) (s : State) : (stageByte P b s).voices = s.voices := rfl
@[simp] theorem stageByte_mvolL (P : Params) (b : Byte) (s : State) : (stageByte P b s).mvolL = s.mvolL := rfl
@[simp] theorem stageByte_mvolR (P : Params) (b : Byte) (s : State) : (stageByte P b s).mvolR = s.mvolR := rfl
@[simp] theorem stageByte_rvolL (P : Params) (b : Byte) (s : State) : (stageByte P b s).rvolL = s.rvolL := rfl
@[simp] theorem stageByte_rvolR (P : Params) (b : Byte) (s : State) : (stageByte P b s).rvolR = s.rvolR := rfl
@[simp] theorem stageByte_kon (P : Params) (b : Byte) (s : State) : (stageByte P b s).kon = s.kon := rfl
@[simp] theorem stageByte_koff (P : Params) (b : Byte) (s : State) : (stageByte P b s).koff = s.koff := rfl
@[simp] theorem stageByte_chrvb (P : Params) (b : Byte) (s : State) : (stageByte P b s).chrvb = s.chrvb := rfl
@[simp] theorem stageByte_irqa (P : Params) (b : Byte) (s : State) : (stageByte P b s).irqa = s.irqa := rfl
@[simp] theorem stageByte_stga (P : Params) (b : Byte) (s : State) : (stageByte P b s).stga = s.stga := rfl
@[simp] theorem stageByte_ctrl (P : Params) (b : Byte) (s : State) : (stageByte P b s).ctrl = s.ctrl := rfl
@[simp] theorem stageByte_xfer (P : Params) (b : Byte) (s : State) : (stageByte P b s).xfer = s.xfer := rfl
@[simp] theorem stageByte_stat (P : Params) (b : Byte) (s : State) : (stageByte P b s).stat = s.stat := rfl
@[simp] theorem stageByte_cdvolL (P : Params) (b : Byte) (s : State) : (stageByte P b s).cdvolL = s.cdvolL := rfl
@[simp] theorem stageByte_cdvolR (P : Params) (b : Byte) (s : State) : (stageByte P b s).cdvolR = s.cdvolR := rfl
@[simp] theorem stageByte_extvolL (P : Params) (b : Byte) (s : State) : (stageByte P b s).extvolL = s.extvolL := rfl
@[simp] theorem stageByte_extvolR (P : Params) (b : Byte) (s : State) : (stageByte P b s).extvolR = s.extvolR := rfl
@[simp] theorem stageByte_scur (P : Params) (b : Byte) (s : State) : (stageByte P b s).scur = BitVec.ofNat 19 ((s.scur.toNat + 1) % voiceMemBytes) := rfl
@[simp] theorem stageByte_mem (P : Params) (b : Byte) (s : State) : (stageByte P b s).mem = memWrite P s.mem s.scur.toNat b := rfl
@[simp] theorem stageByte_out (P : Params) (b : Byte) (s : State) : (stageByte P b s).out = s.out := rfl
@[simp] theorem stageByte_wp (P : Params) (b : Byte) (s : State) : (stageByte P b s).wp = s.wp := rfl
@[simp] theorem stageByte_ready (P : Params) (b : Byte) (s : State) : (stageByte P b s).ready = s.ready := rfl
@[simp] theorem stageByte_rdata (P : Params) (b : Byte) (s : State) : (stageByte P b s).rdata = s.rdata := rfl
@[simp] theorem stageByte_pending (P : Params) (b : Byte) (s : State) : (stageByte P b s).pending = s.pending := rfl

/-! ## refreshStatus -/

@[simp] theorem refreshStatus_voices (P : Params) (s : State) : (refreshStatus P s).voices = s.voices := rfl
@[simp] theorem refreshStatus_mvolL (P : Params) (s : State) : (refreshStatus P s).mvolL = s.mvolL := rfl
@[simp] theorem refreshStatus_mvolR (P : Params) (s : State) : (refreshStatus P s).mvolR = s.mvolR := rfl
@[simp] theorem refreshStatus_rvolL (P : Params) (s : State) : (refreshStatus P s).rvolL = s.rvolL := rfl
@[simp] theorem refreshStatus_rvolR (P : Params) (s : State) : (refreshStatus P s).rvolR = s.rvolR := rfl
@[simp] theorem refreshStatus_kon (P : Params) (s : State) : (refreshStatus P s).kon = s.kon := rfl
@[simp] theorem refreshStatus_koff (P : Params) (s : State) : (refreshStatus P s).koff = s.koff := rfl
@[simp] theorem refreshStatus_chrvb (P : Params) (s : State) : (refreshStatus P s).chrvb = s.chrvb := rfl
@[simp] theorem refreshStatus_irqa (P : Params) (s : State) : (refreshStatus P s).irqa = s.irqa := rfl
@[simp] theorem refreshStatus_stga (P : Params) (s : State) : (refreshStatus P s).stga = s.stga := rfl
@[simp] theorem refreshStatus_ctrl (P : Params) (s : State) : (refreshStatus P s).ctrl = s.ctrl := rfl
@[simp] theorem refreshStatus_xfer (P : Params) (s : State) : (refreshStatus P s).xfer = s.xfer := rfl
@[simp] theorem refreshStatus_stat (P : Params) (s : State) : (refreshStatus P s).stat = mirrored P s.stat s.ctrl := rfl
@[simp] theorem refreshStatus_cdvolL (P : Params) (s : State) : (refreshStatus P s).cdvolL = s.cdvolL := rfl
@[simp] theorem refreshStatus_cdvolR (P : Params) (s : State) : (refreshStatus P s).cdvolR = s.cdvolR := rfl
@[simp] theorem refreshStatus_extvolL (P : Params) (s : State) : (refreshStatus P s).extvolL = s.extvolL := rfl
@[simp] theorem refreshStatus_extvolR (P : Params) (s : State) : (refreshStatus P s).extvolR = s.extvolR := rfl
@[simp] theorem refreshStatus_scur (P : Params) (s : State) : (refreshStatus P s).scur = s.scur := rfl
@[simp] theorem refreshStatus_mem (P : Params) (s : State) : (refreshStatus P s).mem = s.mem := rfl
@[simp] theorem refreshStatus_out (P : Params) (s : State) : (refreshStatus P s).out = s.out := rfl
@[simp] theorem refreshStatus_wp (P : Params) (s : State) : (refreshStatus P s).wp = s.wp := rfl
@[simp] theorem refreshStatus_ready (P : Params) (s : State) : (refreshStatus P s).ready = s.ready := rfl
@[simp] theorem refreshStatus_rdata (P : Params) (s : State) : (refreshStatus P s).rdata = s.rdata := rfl
@[simp] theorem refreshStatus_pending (P : Params) (s : State) : (refreshStatus P s).pending = s.pending := rfl

/-! ## appendFrame -/

@[simp] theorem appendFrame_voices (l r : Int) (s : State) : (appendFrame l r s).voices = s.voices := rfl
@[simp] theorem appendFrame_mvolL (l r : Int) (s : State) : (appendFrame l r s).mvolL = s.mvolL := rfl
@[simp] theorem appendFrame_mvolR (l r : Int) (s : State) : (appendFrame l r s).mvolR = s.mvolR := rfl
@[simp] theorem appendFrame_rvolL (l r : Int) (s : State) : (appendFrame l r s).rvolL = s.rvolL := rfl
@[simp] theorem appendFrame_rvolR (l r : Int) (s : State) : (appendFrame l r s).rvolR = s.rvolR := rfl
@[simp] theorem appendFrame_kon (l r : Int) (s : State) : (appendFrame l r s).kon = s.kon := rfl
@[simp] theorem appendFrame_koff (l r : Int) (s : State) : (appendFrame l r s).koff = s.koff := rfl
@[simp] theorem appendFrame_chrvb (l r : Int) (s : State) : (appendFrame l r s).chrvb = s.chrvb := rfl
@[simp] theorem appendFrame_irqa (l r : Int) (s : State) : (appendFrame l r s).irqa = s.irqa := rfl
@[simp] theorem appendFrame_stga (l r : Int) (s : State) : (appendFrame l r s).stga = s.stga := rfl
@[simp] theorem appendFrame_ctrl (l r : Int) (s : State) : (appendFrame l r s).ctrl = s.ctrl := rfl
@[simp] theorem appendFrame_xfer (l r : Int) (s : State) : (appendFrame l r s).xfer = s.xfer := rfl
@[simp] theorem appendFrame_stat (l r : Int) (s : State) : (appendFrame l r s).stat = s.stat := rfl
@[simp] theorem appendFrame_cdvolL (l r : Int) (s : State) : (appendFrame l r s).cdvolL = s.cdvolL := rfl
@[simp] theorem appendFrame_cdvolR (l r : Int) (s : State) : (appendFrame l r s).cdvolR = s.cdvolR := rfl
@[simp] theorem appendFrame_extvolL (l r : Int) (s : State) : (appendFrame l r s).extvolL = s.extvolL := rfl
@[simp] theorem appendFrame_extvolR (l r : Int) (s : State) : (appendFrame l r s).extvolR = s.extvolR := rfl
@[simp] theorem appendFrame_scur (l r : Int) (s : State) : (appendFrame l r s).scur = s.scur := rfl
@[simp] theorem appendFrame_mem (l r : Int) (s : State) : (appendFrame l r s).mem = s.mem := rfl
@[simp] theorem appendFrame_out (l r : Int) (s : State) : (appendFrame l r s).out = (s.out.set s.wp (BitVec.ofInt 16 l)).set (s.wp + 1) (BitVec.ofInt 16 r) := rfl
@[simp] theorem appendFrame_wp (l r : Int) (s : State) : (appendFrame l r s).wp = s.wp + 2 := rfl
@[simp] theorem appendFrame_ready (l r : Int) (s : State) : (appendFrame l r s).ready = s.ready := rfl
@[simp] theorem appendFrame_rdata (l r : Int) (s : State) : (appendFrame l r s).rdata = s.rdata := rfl
@[simp] theorem appendFrame_pending (l r : Int) (s : State) : (appendFrame l r s).pending = s.pending := rfl

/-! ## issueNext -/

@[simp] theorem issueNext_voices (c : Command) (s : State) : (issueNext c s).voices = s.voices := rfl
@[simp] theorem issueNext_mvolL (c : Command) (s : State) : (issueNext c s).mvolL = s.mvolL := rfl
@[simp] theorem issueNext_mvolR (c : Command) (s : State) : (issueNext c s).mvolR = s.mvolR := rfl
@[simp] theorem issueNext_rvolL (c : Command) (s : State) : (issueNext c s).rvolL = s.rvolL := rfl
@[simp] theorem issueNext_rvolR (c : Command) (s : State) : (issueNext c s).rvolR = s.rvolR := rfl
@[simp] theorem issueNext_kon (c : Command) (s : State) : (issueNext c s).kon = s.kon := rfl
@[simp] theorem issueNext_koff (c : Command) (s : State) : (issueNext c s).koff = s.koff := rfl
@[simp] theorem issueNext_chrvb (c : Command) (s : State) : (issueNext c s).chrvb = s.chrvb := rfl
@[simp] theorem issueNext_irqa (c : Command) (s : State) : (issueNext c s).irqa = s.irqa := rfl
@[simp] theorem issueNext_stga (c : Command) (s : State) : (issueNext c s).stga = s.stga := rfl
@[simp] theorem issueNext_ctrl (c : Command) (s : State) : (issueNext c s).ctrl = s.ctrl := rfl
@[simp] theorem issueNext_xfer (c : Command) (s : State) : (issueNext c s).xfer = s.xfer := rfl
@[simp] theorem issueNext_stat (c : Command) (s : State) : (issueNext c s).stat = s.stat := rfl
@[simp] theorem issueNext_cdvolL (c : Command) (s : State) : (issueNext c s).cdvolL = s.cdvolL := rfl
@[simp] theorem issueNext_cdvolR (c : Command) (s : State) : (issueNext c s).cdvolR = s.cdvolR := rfl
@[simp] theorem issueNext_extvolL (c : Command) (s : State) : (issueNext c s).extvolL = s.extvolL := rfl
@[simp] theorem issueNext_extvolR (c : Command) (s : State) : (issueNext c s).extvolR = s.extvolR := rfl
@[simp] theorem issueNext_scur (c : Command) (s : State) : (issueNext c s).scur = s.scur := rfl
@[simp] theorem issueNext_mem (c : Command) (s : State) : (issueNext c s).mem = s.mem := rfl
@[simp] theorem issueNext_out (c : Command) (s : State) : (issueNext c s).out = s.out := rfl
@[simp] theorem issueNext_wp (c : Command) (s : State) : (issueNext c s).wp = s.wp := rfl
@[simp] theorem issueNext_ready (c : Command) (s : State) : (issueNext c s).ready = s.ready := rfl
@[simp] theorem issueNext_rdata (c : Command) (s : State) : (issueNext c s).rdata = s.rdata := rfl
@[simp] theorem issueNext_pending (c : Command) (s : State) : (issueNext c s).pending = c :: s.pending := rfl

/-! ## Voice.keyOn -/

@[simp] theorem Voice.keyOn_volL (x : Voice) : x.keyOn.volL = x.volL := rfl
@[simp] theorem Voice.keyOn_volR (x : Voice) : x.keyOn.volR = x.volR := rfl
@[simp] theorem Voice.keyOn_rate (x : Voice) : x.keyOn.rate = x.rate := rfl
@[simp] theorem Voice.keyOn_start (x : Voice) : x.keyOn.start = x.start := rfl
@[simp] theorem Voice.keyOn_adsrCfg (x : Voice) : x.keyOn.adsrCfg = x.adsrCfg := rfl
@[simp] theorem Voice.keyOn_adsrVol (x : Voice) : x.keyOn.adsrVol = 0 := rfl
@[simp] theorem Voice.keyOn_repeatAddr (x : Voice) : x.keyOn.repeatAddr = x.start := rfl
@[simp] theorem Voice.keyOn_cur (x : Voice) : x.keyOn.cur = x.start := rfl
@[simp] theorem Voice.keyOn_subPos (x : Voice) : x.keyOn.subPos = x.subPos := rfl
@[simp] theorem Voice.keyOn_cacheValid (x : Voice) : x.keyOn.cacheValid = x.cacheValid := rfl
@[simp] theorem Voice.keyOn_cache (x : Voice) : x.keyOn.cache = x.cache := rfl
@[simp] theorem Voice.keyOn_hist (x : Voice) : x.keyOn.hist = x.hist := rfl
@[simp] theorem Voice.keyOn_playing (x : Voice) : x.keyOn.playing = true := rfl

/-! ## Voice.keyOff -/

@[simp] theorem Voice.keyOff_volL (x : Voice) : x.keyOff.volL = x.volL := rfl
@[simp] theorem Voice.keyOff_volR (x : Voice) : x.keyOff.volR = x.volR := rfl
@[simp] theorem Voice.keyOff_rate (x : Voice) : x.keyOff.rate = x.rate := rfl
@[simp] theorem Voice.keyOff_start (x : Voice) : x.keyOff.start = x.start := rfl
@[simp] theorem Voice.keyOff_adsrCfg (x : Voice) : x.keyOff.adsrCfg = x.adsrCfg := rfl
@[simp] theorem Voice.keyOff_adsrVol (x : Voice) : x.keyOff.adsrVol = x.adsrVol := rfl
@[simp] theorem Voice.keyOff_repeatAddr (x : Voice) : x.keyOff.repeatAddr = x.repeatAddr := rfl
@[simp] theorem Voice.keyOff_cur (x : Voice) : x.keyOff.cur = x.cur := rfl
@[simp] theorem Voice.keyOff_subPos (x : Voice) : x.keyOff.subPos = x.subPos := rfl
@[simp] theorem Voice.keyOff_cacheValid (x : Voice) : x.keyOff.cacheValid = x.cacheValid := rfl
@[simp] theorem Voice.keyOff_cache (x : Voice) : x.keyOff.cache = x.cache := rfl
@[simp] theorem Voice.keyOff_hist (x : Voice) : x.keyOff.hist = x.hist := rfl
@[simp] theorem Voice.keyOff_playing (x : Voice) : x.keyOff.playing = false := rfl

/-! ## Voice.cross -/

@[simp] theorem Voice.cross_volL (x : Voice) : x.cross.volL = x.volL := rfl
@[simp] theorem Voice.cross_volR (x : Voice) : x.cross.volR = x.volR := rfl
@[simp] theorem Voice.cross_rate (x : Voice) : x.cross.rate = x.rate := rfl
@[simp] theorem Voice.cross_start (x : Voice) : x.cross.start = x.start := rfl
@[simp] theorem Voice.cross_adsrCfg (x : Voice) : x.cross.adsrCfg = x.adsrCfg := rfl
@[simp] theorem Voice.cross_adsrVol (x : Voice) : x.cross.adsrVol = x.adsrVol := rfl
@[simp] theorem Voice.cross_repeatAddr (x : Voice) : x.cross.repeatAddr = x.repeatAddr := rfl
@[simp] theorem Voice.cross_cur (x : Voice) : x.cross.cur = x.cur + BitVec.ofNat 16 blockStride := rfl
@[simp] theorem Voice.cross_subPos (x : Voice) : x.cross.subPos = BitVec.ofNat 17 (x.advanced - subPosLimit) := rfl
@[simp] theorem Voice.cross_cacheValid (x : Voice) : x.cross.cacheValid = false := rfl
@[simp] theorem Voice.cross_cache (x : Voice) : x.cross.cache = x.cache := rfl
@[simp] theorem Voice.cross_hist (x : Voice) : x.cross.hist = x.hist := rfl
@[simp] theorem Voice.cross_playing (x : Voice) : x.cross.playing = x.playing := rfl

/-! ## The selected voice -/

@[simp] theorem State.voice_setVoice_self (s : State) (v : Fin voiceCount) (x : Voice) : (s.setVoice v x).voice v = x := by
  simp [State.voice, State.setVoice, Vector.get_eq_getElem]

theorem State.voice_setVoice (s : State) (v u : Fin voiceCount) (x : Voice) :
    (s.setVoice v x).voice u = if u = v then x else s.voice u := by
  simp only [State.voice, State.setVoice, Vector.get_eq_getElem, Vector.getElem_set, Fin.ext_iff, eq_comm]

@[simp] theorem State.voice_setVoice_ne (s : State) {v u : Fin voiceCount} (x : Voice) (h : u ≠ v) :
    (s.setVoice v x).voice u = s.voice u := by
  simp [State.voice_setVoice, h]

theorem State.voice_modifyVoice (s : State) (v u : Fin voiceCount) (f : Voice → Voice) :
    (s.modifyVoice v f).voice u = if u = v then f (s.voice u) else s.voice u := by
  by_cases h : u = v
  · subst h; simp [State.modifyVoice]
  · simp [State.modifyVoice, h]

@[simp] theorem State.voice_answer (s : State) (b : Byte) (v : Fin voiceCount) : (s.answer b).voice v = s.voice v := rfl
@[simp] theorem State.voice_finish (s : State) (v : Fin voiceCount) : s.finish.voice v = s.voice v := rfl
@[simp] theorem State.voice_reloadCursor (s : State) (v : Fin voiceCount) : (reloadCursor s).voice v = s.voice v := rfl
@[simp] theorem State.voice_stageByte (P : Params) (b : Byte) (s : State) (v : Fin voiceCount) :
    (stageByte P b s).voice v = s.voice v := rfl
@[simp] theorem State.voice_refreshStatus (P : Params) (s : State) (v : Fin voiceCount) :
    (refreshStatus P s).voice v = s.voice v := rfl
@[simp] theorem State.voice_appendFrame (l r : Int) (s : State) (v : Fin voiceCount) :
    (appendFrame l r s).voice v = s.voice v := rfl
@[simp] theorem State.voice_issueNext (c : Command) (s : State) (v : Fin voiceCount) :
    (issueNext c s).voice v = s.voice v := rfl

/-- Two states with the same voices have the same selected voice. -/
theorem State.voice_congr {s t : State} (h : s.voices = t.voices) (v : Fin voiceCount) : s.voice v = t.voice v := by
  simp [State.voice, h]

/-- The voices are determined by what each voice index selects. -/
theorem State.voices_ext {s t : State} (h : ∀ v, s.voice v = t.voice v) : s.voices = t.voices := by
  apply Vector.ext
  intro i hi
  have := h ⟨i, hi⟩
  simpa [State.voice, Vector.get_eq_getElem] using this

/-- Every voice of the reset state is the reset voice (R56). -/
@[simp] theorem State.voice_resetWith (P : Params) (v : Fin voiceCount) :
    (State.resetWith P).voice v = Voice.atReset := by
  simp [State.voice, State.resetWith, Vector.get_eq_getElem]

end Sys2Proof.Machine
end

