-- ==== Sys2Proof/Laws/Loops.lean ====
section
/-! SUPPORT. The loops over the voices, each said once: what it does to every voice, and that it does nothing else
(R163, R166, R172, R200, R201). -/

namespace Sys2Proof.Machine

open Sys2Proof.Config

theorem mem_voiceOrder (v : Fin voiceCount) : v ∈ voiceOrder := by simp [voiceOrder]

theorem voiceOrder_nodup : voiceOrder.Nodup := by simp [voiceOrder, List.nodup_finRange]

/-- Two states that differ in their voices only. -/
abbrev State.SameButVoices (s t : State) : Prop := t = { s with voices := t.voices }

theorem State.SameButVoices.refl (s : State) : s.SameButVoices s := rfl

theorem State.SameButVoices.setVoice {s t : State} (h : s.SameButVoices t) (v : Fin voiceCount) (x : Voice) :
    s.SameButVoices (t.setVoice v x) := by
  unfold State.SameButVoices at h ⊢
  rw [h]; rfl

/-! ## Key-mask commits -/

/-- A loop that changes the voices a mask selects, over any list without repeats. -/
theorem foldl_modifyVoice (mask : State → Reg32) (hmask : ∀ (t : State) v x, mask (t.setVoice v x) = mask t)
    (f : Voice → Voice) (l : List (Fin voiceCount)) (hl : l.Nodup) (s : State) :
    s.SameButVoices (l.foldl (fun t v => if selects (mask t) v then t.modifyVoice v f else t) s) ∧
      ∀ v, (l.foldl (fun t v => if selects (mask t) v then t.modifyVoice v f else t) s).voice v =
        if v ∈ l ∧ selects (mask s) v then f (s.voice v) else s.voice v := by
  induction l generalizing s with
  | nil => simp
  | cons u l ih =>
    obtain ⟨hu, hl⟩ := List.nodup_cons.1 hl
    simp only [List.foldl_cons]
    by_cases hs : selects (mask s) u = true
    · rw [if_pos hs]
      obtain ⟨h1, h2⟩ := ih hl (s.modifyVoice u f)
      have hm : mask (s.modifyVoice u f) = mask s := hmask s u _
      constructor
      · have h0 : s.SameButVoices (s.modifyVoice u f) := (State.SameButVoices.refl s).setVoice u _
        unfold State.SameButVoices at h0 h1 ⊢
        rw [h1, h0]
      · intro v
        rw [h2, hm, State.voice_modifyVoice]
        by_cases hv : v = u
        · subst hv; simp [hu, hs]
        · simp [hv]
    · rw [if_neg hs]
      obtain ⟨h1, h2⟩ := ih hl s
      refine ⟨h1, fun v => ?_⟩
      rw [h2]
      by_cases hv : v = u
      · subst hv; simp [hs]
      · simp [hv]

/-- A key-on commit changes nothing but voices. -/
theorem commitKeyOn_sameButVoices (s : State) : s.SameButVoices (commitKeyOn s) :=
  (foldl_modifyVoice (·.kon) (fun _ _ _ => rfl) Voice.keyOn voiceOrder voiceOrder_nodup s).1

/-- A key-on commit keys on exactly the selected voices (R163). -/
theorem commitKeyOn_voice (s : State) (v : Fin voiceCount) :
    (commitKeyOn s).voice v = if selects s.kon v then (s.voice v).keyOn else s.voice v := by
  have h := (foldl_modifyVoice (·.kon) (fun _ _ _ => rfl) Voice.keyOn voiceOrder voiceOrder_nodup s).2 v
  simpa [commitKeyOn, mem_voiceOrder] using h

/-- A key-off commit changes nothing but voices. -/
theorem commitKeyOff_sameButVoices (s : State) : s.SameButVoices (commitKeyOff s) :=
  (foldl_modifyVoice (·.koff) (fun _ _ _ => rfl) Voice.keyOff voiceOrder voiceOrder_nodup s).1

/-- A key-off commit keys off exactly the selected voices (R166). -/
theorem commitKeyOff_voice (s : State) (v : Fin voiceCount) :
    (commitKeyOff s).voice v = if selects s.koff v then (s.voice v).keyOff else s.voice v := by
  have h := (foldl_modifyVoice (·.koff) (fun _ _ _ => rfl) Voice.keyOff voiceOrder voiceOrder_nodup s).2 v
  simpa [commitKeyOff, mem_voiceOrder] using h

/-! ## The tick of all voices -/

/-- The tick loop over any list without repeats. -/
theorem foldl_tickOne (P : Params) (l : List (Fin voiceCount)) (hl : l.Nodup) (es : Emissions) (s : State) :
    s.SameButVoices (l.foldl (tickOne P) (es, s)).2 ∧
      ∀ v, (l.foldl (tickOne P) (es, s)).2.voice v =
          (if v ∈ l then (voiceTick P s.mem (s.voice v)).2 else s.voice v) ∧
        (l.foldl (tickOne P) (es, s)).1.get v =
          if v ∈ l then (voiceTick P s.mem (s.voice v)).1 else es.get v := by
  induction l generalizing es s with
  | nil => simp
  | cons u l ih =>
    obtain ⟨hu, hl⟩ := List.nodup_cons.1 hl
    simp only [List.foldl_cons]
    have hstep : tickOne P (es, s) u =
        (es.set u.val (voiceTick P s.mem (s.voice u)).1 u.isLt, s.setVoice u (voiceTick P s.mem (s.voice u)).2) := rfl
    rw [hstep]
    obtain ⟨h1, h2⟩ := ih hl (es.set u.val (voiceTick P s.mem (s.voice u)).1 u.isLt)
      (s.setVoice u (voiceTick P s.mem (s.voice u)).2)
    constructor
    · have h0 : s.SameButVoices (s.setVoice u (voiceTick P s.mem (s.voice u)).2) :=
        (State.SameButVoices.refl s).setVoice u _
      unfold State.SameButVoices at h0 h1 ⊢
      rw [h1, h0]
    · intro v
      obtain ⟨h3, h4⟩ := h2 v
      rw [h3, h4]
      simp only [State.setVoice_mem]
      by_cases hv : v = u
      · subst hv; simp [hu, Vector.get_eq_getElem]
      · have hne : ¬ u.val = v.val := fun h => hv (Fin.ext h.symm)
        simp [hv, Vector.get_eq_getElem, hne]

/-- Ticking changes nothing but voices. -/
theorem tickVoices_sameButVoices (P : Params) (s : State) : s.SameButVoices (tickVoices P s).2 :=
  (foldl_tickOne P voiceOrder voiceOrder_nodup _ s).1

/-- Every voice is ticked once, from the memory and the record it had before the STEP (R201). -/
theorem tickVoices_voice (P : Params) (s : State) (v : Fin voiceCount) :
    (tickVoices P s).2.voice v = (voiceTick P s.mem (s.voice v)).2 := by
  have h := ((foldl_tickOne P voiceOrder voiceOrder_nodup (Vector.replicate voiceCount Emission.silent) s).2 v).1
  simpa [tickVoices, mem_voiceOrder] using h

/-- The mixer sees the emission of every voice of the same STEP (R201). -/
theorem tickVoices_emission (P : Params) (s : State) (v : Fin voiceCount) :
    (tickVoices P s).1.get v = (voiceTick P s.mem (s.voice v)).1 := by
  have h := ((foldl_tickOne P voiceOrder voiceOrder_nodup (Vector.replicate voiceCount Emission.silent) s).2 v).2
  simpa [tickVoices, mem_voiceOrder] using h

end Sys2Proof.Machine
end

