-- ==== Sys2Proof/Laws/Exec.lean ====
section
/-! SUPPORT. What the commands other than STEP and RESET leave alone, said once for all of them. -/

namespace Sys2Proof.Machine

open Sys2Proof.Config

/-- What only STEP and RESET change, but for the position, which a write to a start address sets to 0 (R53, R52, R49, R33). -/
structure State.SameButRegisters (s t : State) : Prop where
  wp : t.wp = s.wp
  out : t.out = s.out
  extvolL : t.extvolL = s.extvolL
  extvolR : t.extvolR = s.extvolR
  cacheValid : ∀ v, (t.voice v).cacheValid = (s.voice v).cacheValid
  subPos : ∀ v, (t.voice v).subPos = (s.voice v).subPos ∨ (t.voice v).subPos = 0

/-- A write to one voice that keeps its cache, and keeps its position or sets it to 0. -/
theorem State.SameButRegisters.modifyVoice (s : State) (v : Fin voiceCount) (f : Voice → Voice)
    (hc : ∀ x, (f x).cacheValid = x.cacheValid) (hp : ∀ x, (f x).subPos = x.subPos ∨ (f x).subPos = 0) :
    s.SameButRegisters (s.modifyVoice v f).finish where
  wp := rfl
  out := rfl
  extvolL := rfl
  extvolR := rfl
  cacheValid := fun u => by
    rw [State.voice_finish, State.voice_modifyVoice]
    split
    · exact hc _
    · rfl
  subPos := fun u => by
    rw [State.voice_finish, State.voice_modifyVoice]
    split
    · exact hp _
    · exact .inl rfl

/-- A state with the same voices. -/
theorem State.SameButRegisters.ofVoices {s t : State} (hwp : t.wp = s.wp) (hout : t.out = s.out)
    (hl : t.extvolL = s.extvolL) (hr : t.extvolR = s.extvolR) (hv : t.voices = s.voices) : s.SameButRegisters t where
  wp := hwp
  out := hout
  extvolL := hl
  extvolR := hr
  cacheValid := fun v => by rw [State.voice_congr hv v]
  subPos := fun v => .inl (by rw [State.voice_congr hv v])

/-- A key-mask commit, after its mask byte is stored in a state u with the same voices. -/
theorem State.SameButRegisters.commit {s u t : State} (hu : s.SameButRegisters u) (h : u.SameButVoices t)
    (hv : ∀ v, (t.voice v).cacheValid = (u.voice v).cacheValid ∧ (t.voice v).subPos = (u.voice v).subPos) :
    s.SameButRegisters t.finish := by
  unfold State.SameButVoices at h
  refine ⟨?_, ?_, ?_, ?_, fun v => (hv v).1.trans (hu.cacheValid v), fun v => ?_⟩
  · rw [State.finish_wp, h]; exact hu.wp
  · rw [State.finish_out, h]; exact hu.out
  · rw [State.finish_extvolL, h]; exact hu.extvolL
  · rw [State.finish_extvolR, h]; exact hu.extvolR
  · rw [State.voice_finish, (hv v).2]
    exact hu.subPos v

/-- Every command but STEP and RESET that completes leaves all that alone. -/
theorem exec_sameButRegisters {i : Instr} {s t : State} (h : exec i s = .next t) (hs : i ≠ .step) (hr : i ≠ .reset) :
    s.SameButRegisters t := by
  cases i
  case step => exact absurd rfl hs
  case reset => exact absurd rfl hr
  case reserved => cases h
  case wrKonCommit b =>
    cases h
    refine State.SameButRegisters.commit (u := { s with kon := regWriteByte s.kon 3 b })
      (State.SameButRegisters.ofVoices rfl rfl rfl rfl rfl) (commitKeyOn_sameButVoices _) fun v => ?_
    rw [commitKeyOn_voice]
    split <;> exact ⟨rfl, rfl⟩
  case wrKoffCommit b =>
    cases h
    refine State.SameButRegisters.commit (u := { s with koff := regWriteByte s.koff 3 b })
      (State.SameButRegisters.ofVoices rfl rfl rfl rfl rfl) (commitKeyOff_sameButVoices _) fun v => ?_
    rw [commitKeyOff_voice]
    split <;> exact ⟨rfl, rfl⟩
  case wrStart v k b => cases h; exact State.SameButRegisters.modifyVoice s v _ (fun _ => rfl) fun _ => .inr rfl
  case wrVoll v k b => cases h; exact State.SameButRegisters.modifyVoice s v _ (fun _ => rfl) fun _ => .inl rfl
  case wrVolr v k b => cases h; exact State.SameButRegisters.modifyVoice s v _ (fun _ => rfl) fun _ => .inl rfl
  case wrRate v k b => cases h; exact State.SameButRegisters.modifyVoice s v _ (fun _ => rfl) fun _ => .inl rfl
  case wrAdsrcfg v k b => cases h; exact State.SameButRegisters.modifyVoice s v _ (fun _ => rfl) fun _ => .inl rfl
  case wrAdsrvol v k b => cases h; exact State.SameButRegisters.modifyVoice s v _ (fun _ => rfl) fun _ => .inl rfl
  case wrRepeat v k b => cases h; exact State.SameButRegisters.modifyVoice s v _ (fun _ => rfl) fun _ => .inl rfl
  all_goals cases h; exact State.SameButRegisters.ofVoices rfl rfl rfl rfl rfl

end Sys2Proof.Machine
end

