-- ==== Sys2Proof/Laws/Memory.lean ====
section
/-! SUPPORT. Voice memory: a read after a write, and the canonical form that every operation keeps. -/

namespace Sys2Proof.Machine

open Sys2Proof.Config

/-- Every address listed in memory is above a. -/
abbrev Memory.Above (a : Nat) (m : Memory) : Prop := ∀ d ∈ m, a < d.1

theorem Memory.wf_cons (init : Nat → Byte) (c : Host.Cell) (m : Memory) :
    Memory.wf init (c :: m) = true ↔
      (c.1 < voiceMemBytes ∧ c.2 ≠ init c.1) ∧ Memory.Above c.1 m ∧ Memory.wf init m = true := by
  simp [Memory.wf, and_assoc]

/-- An address below every listed one reads as the initial contents. -/
theorem Memory.read_of_above (init : Nat → Byte) (m : Memory) (a : Nat) (h : Memory.Above a m) :
    Memory.read init m a = init a := by
  induction m with
  | nil => rfl
  | cons c m ih =>
    have h1 : a < c.1 := h c (by simp)
    simp only [Memory.read, if_neg (Nat.ne_of_gt h1)]
    exact ih fun d hd => h d (by simp [hd])

theorem Memory.read_cells_append_same (init : Nat → Byte) (m : Memory) (a : Nat) (b : Byte) (h : Memory.Above a m) :
    Memory.read init (Memory.cells init a b ++ m) a = b := by
  unfold Memory.cells
  split
  · next hb => simp [Memory.read_of_above init m a h, hb]
  · simp [Memory.read]

theorem Memory.read_cells_append_other (init : Nat → Byte) (m : Memory) (a x : Nat) (b : Byte) (h : a ≠ x) :
    Memory.read init (Memory.cells init a b ++ m) x = Memory.read init m x := by
  unfold Memory.cells
  split
  · simp
  · simp [Memory.read, h]

/-- A read after a write gives the byte written at its address and the old byte elsewhere. -/
theorem Memory.read_write (init : Nat → Byte) (m : Memory) (a x : Nat) (b : Byte) (h : Memory.wf init m = true) :
    Memory.read init (Memory.write init m a b) x = if x = a then b else Memory.read init m x := by
  induction m with
  | nil =>
    by_cases hx : x = a
    · subst hx
      simpa [Memory.write] using Memory.read_cells_append_same init [] x b (by simp)
    · simpa [Memory.write, hx] using Memory.read_cells_append_other init [] a x b (Ne.symm hx)
  | cons c m ih =>
    obtain ⟨-, habove, hwf⟩ := (Memory.wf_cons init c m).1 h
    unfold Memory.write
    split
    · next hlt =>
      have ha : Memory.Above a (c :: m) := by
        intro d hd
        rcases List.mem_cons.1 hd with rfl | hd
        · exact hlt
        · exact Nat.lt_trans hlt (habove d hd)
      by_cases hx : x = a
      · subst hx; simp [Memory.read_cells_append_same init (c :: m) x b ha]
      · simp [Memory.read_cells_append_other init (c :: m) a x b (Ne.symm hx), hx]
    · split
      · next hlt heq =>
        subst heq
        by_cases hx : x = c.1
        · subst hx; simp [Memory.read_cells_append_same init m c.1 b habove]
        · have hx' : c.1 ≠ x := Ne.symm hx
          simp [Memory.read_cells_append_other init m c.1 x b hx', hx, Memory.read, hx']
      · next hlt hne =>
        simp only [Memory.read]
        by_cases hc : c.1 = x
        · have : x ≠ a := by omega
          simp [hc, this]
        · simp [hc, ih hwf]

theorem Memory.above_cells_append (init : Nat → Byte) (m : Memory) (a x : Nat) (b : Byte) (hx : x < a)
    (h : Memory.Above x m) : Memory.Above x (Memory.cells init a b ++ m) := by
  intro d hd
  unfold Memory.cells at hd
  split at hd
  · exact h d (by simpa using hd)
  · rcases List.mem_append.1 hd with hd | hd
    · simp only [List.mem_singleton] at hd; subst hd; exact hx
    · exact h d hd

theorem Memory.wf_cells_append (init : Nat → Byte) (m : Memory) (a : Nat) (b : Byte) (ha : a < voiceMemBytes)
    (h : Memory.Above a m) (hwf : Memory.wf init m = true) : Memory.wf init (Memory.cells init a b ++ m) = true := by
  unfold Memory.cells
  split
  · simpa using hwf
  · next hb => exact (Memory.wf_cons init (a, b) m).2 ⟨⟨ha, hb⟩, h, hwf⟩

theorem Memory.above_write (init : Nat → Byte) (m : Memory) (a x : Nat) (b : Byte) (hx : x < a)
    (h : Memory.Above x m) : Memory.Above x (Memory.write init m a b) := by
  induction m with
  | nil => simpa [Memory.write] using Memory.above_cells_append init [] a x b hx (by simp)
  | cons c m ih =>
    have hm : Memory.Above x m := fun d hd => h d (by simp [hd])
    unfold Memory.write
    split
    · exact Memory.above_cells_append init (c :: m) a x b hx h
    · split
      · exact Memory.above_cells_append init m a x b hx hm
      · intro d hd
        rcases List.mem_cons.1 hd with rfl | hd
        · exact h d (by simp)
        · exact ih hm d hd

/-- A write below `VOICE_MEM_BYTES` keeps the canonical form. -/
theorem Memory.wf_write (init : Nat → Byte) (m : Memory) (a : Nat) (b : Byte) (ha : a < voiceMemBytes)
    (h : Memory.wf init m = true) : Memory.wf init (Memory.write init m a b) = true := by
  induction m with
  | nil => simpa [Memory.write] using Memory.wf_cells_append init [] a b ha (by simp) rfl
  | cons c m ih =>
    obtain ⟨hc, habove, hwf⟩ := (Memory.wf_cons init c m).1 h
    unfold Memory.write
    split
    · next hlt =>
      refine Memory.wf_cells_append init (c :: m) a b ha ?_ h
      intro d hd
      rcases List.mem_cons.1 hd with rfl | hd
      · exact hlt
      · exact Nat.lt_trans hlt (habove d hd)
    · split
      · next heq => exact Memory.wf_cells_append init m a b ha (heq ▸ habove) hwf
      · exact (Memory.wf_cons init c _).2
          ⟨hc, Memory.above_write init m a c.1 b (by omega) habove, ih hwf⟩

/-- The memory after reset is canonical. -/
@[simp] theorem Memory.wf_nil (init : Nat → Byte) : Memory.wf init [] = true := rfl

/-- `MemWrite` keeps the canonical form. -/
theorem memWrite_wf (P : Params) (m : Memory) (a : Nat) (b : Byte) (h : Memory.wf P.memInit m = true) :
    Memory.wf P.memInit (memWrite P m a b) = true :=
  Memory.wf_write P.memInit m _ b (Nat.mod_lt _ (by norm_num)) h

/-- `MemRead` after `MemWrite`: the byte written where the addresses agree modulo the memory's size, else the old byte. -/
theorem memRead_memWrite (P : Params) (m : Memory) (a x : Nat) (b : Byte) (h : Memory.wf P.memInit m = true) :
    memRead P (memWrite P m a b) x = if x % voiceMemBytes = a % voiceMemBytes then b else memRead P m x := by
  simp [memRead, memWrite, Memory.read_write P.memInit m _ _ b h]

/-- A byte read at an address and at that address one memory size on is the same byte (R11). -/
theorem memRead_mod (P : Params) (m : Memory) (a : Nat) : memRead P m (a % voiceMemBytes) = memRead P m a := by
  simp [memRead]

end Sys2Proof.Machine
end

