-- ==== Sys2Proof/Laws/Mixer.lean ====
section
/-! SUPPORT. What mixing, one STEP and RESET do to the whole state, field by field (R240 to R247, R290). -/

namespace Sys2Proof.Machine

open Sys2Proof.Config

/-- Mixing writes the output buffer, the write index and the ready flag, and nothing else (R245, R246). -/
theorem mix_eq (P : Params) (es : Emissions) (s : State) :
    mix P es s =
      { s with
        out := (s.out.set s.wp (BitVec.ofInt 16 (quantise (mixLeft P es s)))).set (s.wp + 1)
          (BitVec.ofInt 16 (quantise (mixRight P es s)))
        wp := if s.wp + 2 = P.outCap then 0 else s.wp + 2
        ready := if s.wp + 2 = P.outCap then true else s.ready } := by
  by_cases h : s.wp + 2 = P.outCap
  · rw [mix, wrapAndReady, if_pos (by simpa using h), if_pos h, if_pos h]; rfl
  · rw [mix, wrapAndReady, if_neg (by simpa using h), if_neg h, if_neg h]; rfl

/-- One STEP as one record: the voices ticked, one frame appended (R200). -/
theorem stepTick_eq (P : Params) (s : State) :
    stepTick P s =
      { s with
        voices := (tickVoices P s).2.voices
        out := (s.out.set s.wp (BitVec.ofInt 16 (quantise (mixLeft P (tickVoices P s).1 (tickVoices P s).2)))).set (s.wp + 1)
          (BitVec.ofInt 16 (quantise (mixRight P (tickVoices P s).1 (tickVoices P s).2)))
        wp := if s.wp + 2 = P.outCap then 0 else s.wp + 2
        ready := if s.wp + 2 = P.outCap then true else s.ready } := by
  have h := tickVoices_sameButVoices P s
  unfold State.SameButVoices at h
  unfold stepTick
  rw [mix_eq]
  generalize mixLeft P (tickVoices P s).1 (tickVoices P s).2 = l
  generalize mixRight P (tickVoices P s).1 (tickVoices P s).2 = r
  rw [h]

/-- Every voice after a STEP is its own tick (R201). -/
theorem stepTick_voice (P : Params) (s : State) (v : Fin voiceCount) :
    (stepTick P s).voice v = (voiceTick P s.mem (s.voice v)).2 := by
  rw [← tickVoices_voice]
  exact State.voice_congr (by rw [stepTick_eq]) v

/-- The output buffer after a STEP: both slots of the frame, at the write index (R245). -/
theorem stepTick_out (P : Params) (s : State) :
    (stepTick P s).out =
      (s.out.set s.wp (BitVec.ofInt 16 (quantise (mixLeft P (tickVoices P s).1 (tickVoices P s).2)))).set (s.wp + 1)
        (BitVec.ofInt 16 (quantise (mixRight P (tickVoices P s).1 (tickVoices P s).2))) := by rw [stepTick_eq]

@[simp] theorem stepTick_extvolL (P : Params) (s : State) : (stepTick P s).extvolL = s.extvolL := by rw [stepTick_eq]
@[simp] theorem stepTick_extvolR (P : Params) (s : State) : (stepTick P s).extvolR = s.extvolR := by rw [stepTick_eq]
@[simp] theorem stepTick_mem (P : Params) (s : State) : (stepTick P s).mem = s.mem := by rw [stepTick_eq]
@[simp] theorem stepTick_pending (P : Params) (s : State) : (stepTick P s).pending = s.pending := by rw [stepTick_eq]
@[simp] theorem stepTick_wp (P : Params) (s : State) :
    (stepTick P s).wp = if s.wp + 2 = P.outCap then 0 else s.wp + 2 := by rw [stepTick_eq]
@[simp] theorem stepTick_ready (P : Params) (s : State) :
    (stepTick P s).ready = if s.wp + 2 = P.outCap then true else s.ready := by rw [stepTick_eq]
@[simp] theorem stepTick_out_length (P : Params) (s : State) : (stepTick P s).out.length = s.out.length := by
  rw [stepTick_eq]; simp

/-- What an emitting voice adds to the left accumulator, and what an Idle one does (R242). -/
theorem contribution_silent (P : Params) (vol : Reg16) : contribution P Emission.silent vol = 0 := rfl

/-- An accumulator over no emission is 0 (R247). -/
theorem quantise_zero : quantise 0 = 0 := by decide

/-- RESET leaves the reset state, with the commands the host has issued still pending (R290). -/
theorem resetCore_eq (s : State) : resetCore params s = { State.reset with pending := s.pending } := rfl

end Sys2Proof.Machine
end

