-- ==== Sys2Proof/Laws/PerInstr.lean ====
section
/-! SUPPORT. One lemma per instruction: the op and data fields of its command word (R90, R94). -/

namespace Sys2Proof.Laws

/-- The `op` of an instruction's command word (R90). -/
def opOf (i : Instr) : BitVec 3 :=
  match i with
  | .rdVoll _ _ => 0
  | .wrVoll _ _ _ => 1
  | .rdVolr _ _ => 0
  | .wrVolr _ _ _ => 1
  | .rdRate _ _ => 0
  | .wrRate _ _ _ => 1
  | .rdStart _ _ => 0
  | .wrStart _ _ _ => 1
  | .rdAdsrcfg _ _ => 0
  | .wrAdsrcfg _ _ _ => 1
  | .rdAdsrvol _ _ => 0
  | .wrAdsrvol _ _ _ => 1
  | .rdRepeat _ _ => 0
  | .wrRepeat _ _ _ => 1
  | .rdMvoll _ => 0
  | .wrMvoll _ _ => 1
  | .rdMvolr _ => 0
  | .wrMvolr _ _ => 1
  | .rdRvoll _ => 0
  | .wrRvoll _ _ => 1
  | .rdRvolr _ => 0
  | .wrRvolr _ _ => 1
  | .rdChrvb _ => 0
  | .wrChrvb _ _ => 1
  | .rdCdvoll _ => 0
  | .wrCdvoll _ _ => 1
  | .rdCdvolr _ => 0
  | .wrCdvolr _ _ => 1
  | .rdUnmapped _ => 0
  | .wrUnmapped _ _ => 1
  | .rdKon _ => 0
  | .wrKon _ _ => 1
  | .wrKonCommit _ => 1
  | .rdKoff _ => 0
  | .wrKoff _ _ => 1
  | .wrKoffCommit _ => 1
  | .rdIrqa _ => 0
  | .wrIrqa _ _ => 1
  | .rdStga _ => 0
  | .wrStga _ _ => 1
  | .rdFifo _ => 0
  | .wrFifo _ _ => 1
  | .rdCtrl _ => 0
  | .wrCtrl _ _ => 1
  | .rdXfer _ => 0
  | .wrXfer _ _ => 1
  | .rdStat _ => 0
  | .wrStat _ _ => 1
  | .step => 2
  | .ack => 3
  | .reset => 4
  | .reserved op => op

/-- The `data` of an instruction's command word: the byte written, else 0 (R90, R100). -/
def dataOf (i : Instr) : Byte :=
  match i with
  | .rdVoll _ _ => 0
  | .wrVoll _ _ b => b
  | .rdVolr _ _ => 0
  | .wrVolr _ _ b => b
  | .rdRate _ _ => 0
  | .wrRate _ _ b => b
  | .rdStart _ _ => 0
  | .wrStart _ _ b => b
  | .rdAdsrcfg _ _ => 0
  | .wrAdsrcfg _ _ b => b
  | .rdAdsrvol _ _ => 0
  | .wrAdsrvol _ _ b => b
  | .rdRepeat _ _ => 0
  | .wrRepeat _ _ b => b
  | .rdMvoll _ => 0
  | .wrMvoll _ b => b
  | .rdMvolr _ => 0
  | .wrMvolr _ b => b
  | .rdRvoll _ => 0
  | .wrRvoll _ b => b
  | .rdRvolr _ => 0
  | .wrRvolr _ b => b
  | .rdChrvb _ => 0
  | .wrChrvb _ b => b
  | .rdCdvoll _ => 0
  | .wrCdvoll _ b => b
  | .rdCdvolr _ => 0
  | .wrCdvolr _ b => b
  | .rdUnmapped _ => 0
  | .wrUnmapped _ b => b
  | .rdKon _ => 0
  | .wrKon _ b => b
  | .wrKonCommit b => b
  | .rdKoff _ => 0
  | .wrKoff _ b => b
  | .wrKoffCommit b => b
  | .rdIrqa _ => 0
  | .wrIrqa _ b => b
  | .rdStga _ => 0
  | .wrStga _ b => b
  | .rdFifo _ => 0
  | .wrFifo _ b => b
  | .rdCtrl _ => 0
  | .wrCtrl _ b => b
  | .rdXfer _ => 0
  | .wrXfer _ b => b
  | .rdStat _ => 0
  | .wrStat _ b => b
  | .step => 0
  | .ack => 0
  | .reset => 0
  | .reserved _ => 0

/-- The command word of an instruction carries its op and its data (R90, R94). -/
def EncodedFields.Statement (i : Instr) : Prop := opField (encode i) = opOf i ∧ dataField (encode i) = dataOf i

theorem EncodedFields.of_commandWord (op : BitVec 3) (addr : PortAddr) (data : Byte) :
    opField (commandWord op addr data) = op ∧ dataField (commandWord op addr data) = data :=
  ⟨opField_commandWord op addr data, dataField_commandWord op addr data⟩

theorem EncodedFields.rdVoll (v : Fin 24) (k : Fin 2) : EncodedFields.Statement (.rdVoll v k) :=
  EncodedFields.of_commandWord _ _ _

theorem EncodedFields.wrVoll (v : Fin 24) (k : Fin 2) (b : Byte) : EncodedFields.Statement (.wrVoll v k b) :=
  EncodedFields.of_commandWord _ _ _

theorem EncodedFields.rdVolr (v : Fin 24) (k : Fin 2) : EncodedFields.Statement (.rdVolr v k) :=
  EncodedFields.of_commandWord _ _ _

theorem EncodedFields.wrVolr (v : Fin 24) (k : Fin 2) (b : Byte) : EncodedFields.Statement (.wrVolr v k b) :=
  EncodedFields.of_commandWord _ _ _

theorem EncodedFields.rdRate (v : Fin 24) (k : Fin 2) : EncodedFields.Statement (.rdRate v k) :=
  EncodedFields.of_commandWord _ _ _

theorem EncodedFields.wrRate (v : Fin 24) (k : Fin 2) (b : Byte) : EncodedFields.Statement (.wrRate v k b) :=
  EncodedFields.of_commandWord _ _ _

theorem EncodedFields.rdStart (v : Fin 24) (k : Fin 2) : EncodedFields.Statement (.rdStart v k) :=
  EncodedFields.of_commandWord _ _ _

theorem EncodedFields.wrStart (v : Fin 24) (k : Fin 2) (b : Byte) : EncodedFields.Statement (.wrStart v k b) :=
  EncodedFields.of_commandWord _ _ _

theorem EncodedFields.rdAdsrcfg (v : Fin 24) (k : Fin 4) : EncodedFields.Statement (.rdAdsrcfg v k) :=
  EncodedFields.of_commandWord _ _ _

theorem EncodedFields.wrAdsrcfg (v : Fin 24) (k : Fin 4) (b : Byte) : EncodedFields.Statement (.wrAdsrcfg v k b) :=
  EncodedFields.of_commandWord _ _ _

theorem EncodedFields.rdAdsrvol (v : Fin 24) (k : Fin 2) : EncodedFields.Statement (.rdAdsrvol v k) :=
  EncodedFields.of_commandWord _ _ _

theorem EncodedFields.wrAdsrvol (v : Fin 24) (k : Fin 2) (b : Byte) : EncodedFields.Statement (.wrAdsrvol v k b) :=
  EncodedFields.of_commandWord _ _ _

theorem EncodedFields.rdRepeat (v : Fin 24) (k : Fin 2) : EncodedFields.Statement (.rdRepeat v k) :=
  EncodedFields.of_commandWord _ _ _

theorem EncodedFields.wrRepeat (v : Fin 24) (k : Fin 2) (b : Byte) : EncodedFields.Statement (.wrRepeat v k b) :=
  EncodedFields.of_commandWord _ _ _

theorem EncodedFields.rdMvoll (k : Fin 2) : EncodedFields.Statement (.rdMvoll k) :=
  EncodedFields.of_commandWord _ _ _

theorem EncodedFields.wrMvoll (k : Fin 2) (b : Byte) : EncodedFields.Statement (.wrMvoll k b) :=
  EncodedFields.of_commandWord _ _ _

theorem EncodedFields.rdMvolr (k : Fin 2) : EncodedFields.Statement (.rdMvolr k) :=
  EncodedFields.of_commandWord _ _ _

theorem EncodedFields.wrMvolr (k : Fin 2) (b : Byte) : EncodedFields.Statement (.wrMvolr k b) :=
  EncodedFields.of_commandWord _ _ _

theorem EncodedFields.rdRvoll (k : Fin 2) : EncodedFields.Statement (.rdRvoll k) :=
  EncodedFields.of_commandWord _ _ _

theorem EncodedFields.wrRvoll (k : Fin 2) (b : Byte) : EncodedFields.Statement (.wrRvoll k b) :=
  EncodedFields.of_commandWord _ _ _

theorem EncodedFields.rdRvolr (k : Fin 2) : EncodedFields.Statement (.rdRvolr k) :=
  EncodedFields.of_commandWord _ _ _

theorem EncodedFields.wrRvolr (k : Fin 2) (b : Byte) : EncodedFields.Statement (.wrRvolr k b) :=
  EncodedFields.of_commandWord _ _ _

theorem EncodedFields.rdChrvb (k : Fin 4) : EncodedFields.Statement (.rdChrvb k) :=
  EncodedFields.of_commandWord _ _ _

theorem EncodedFields.wrChrvb (k : Fin 4) (b : Byte) : EncodedFields.Statement (.wrChrvb k b) :=
  EncodedFields.of_commandWord _ _ _

theorem EncodedFields.rdCdvoll (k : Fin 2) : EncodedFields.Statement (.rdCdvoll k) :=
  EncodedFields.of_commandWord _ _ _

theorem EncodedFields.wrCdvoll (k : Fin 2) (b : Byte) : EncodedFields.Statement (.wrCdvoll k b) :=
  EncodedFields.of_commandWord _ _ _

theorem EncodedFields.rdCdvolr (k : Fin 2) : EncodedFields.Statement (.rdCdvolr k) :=
  EncodedFields.of_commandWord _ _ _

theorem EncodedFields.wrCdvolr (k : Fin 2) (b : Byte) : EncodedFields.Statement (.wrCdvolr k b) :=
  EncodedFields.of_commandWord _ _ _

theorem EncodedFields.rdUnmapped (a : PortAddr) : EncodedFields.Statement (.rdUnmapped a) :=
  EncodedFields.of_commandWord _ _ _

theorem EncodedFields.wrUnmapped (a : PortAddr) (b : Byte) : EncodedFields.Statement (.wrUnmapped a b) :=
  EncodedFields.of_commandWord _ _ _

theorem EncodedFields.rdKon (k : Fin 4) : EncodedFields.Statement (.rdKon k) :=
  EncodedFields.of_commandWord _ _ _

theorem EncodedFields.wrKon (k : Fin 3) (b : Byte) : EncodedFields.Statement (.wrKon k b) :=
  EncodedFields.of_commandWord _ _ _

theorem EncodedFields.wrKonCommit (b : Byte) : EncodedFields.Statement (.wrKonCommit b) :=
  EncodedFields.of_commandWord _ _ _

theorem EncodedFields.rdKoff (k : Fin 4) : EncodedFields.Statement (.rdKoff k) :=
  EncodedFields.of_commandWord _ _ _

theorem EncodedFields.wrKoff (k : Fin 3) (b : Byte) : EncodedFields.Statement (.wrKoff k b) :=
  EncodedFields.of_commandWord _ _ _

theorem EncodedFields.wrKoffCommit (b : Byte) : EncodedFields.Statement (.wrKoffCommit b) :=
  EncodedFields.of_commandWord _ _ _

theorem EncodedFields.rdIrqa (k : Fin 2) : EncodedFields.Statement (.rdIrqa k) :=
  EncodedFields.of_commandWord _ _ _

theorem EncodedFields.wrIrqa (k : Fin 2) (b : Byte) : EncodedFields.Statement (.wrIrqa k b) :=
  EncodedFields.of_commandWord _ _ _

theorem EncodedFields.rdStga (k : Fin 2) : EncodedFields.Statement (.rdStga k) :=
  EncodedFields.of_commandWord _ _ _

theorem EncodedFields.wrStga (k : Fin 2) (b : Byte) : EncodedFields.Statement (.wrStga k b) :=
  EncodedFields.of_commandWord _ _ _

theorem EncodedFields.rdFifo (k : Fin 2) : EncodedFields.Statement (.rdFifo k) :=
  EncodedFields.of_commandWord _ _ _

theorem EncodedFields.wrFifo (k : Fin 2) (b : Byte) : EncodedFields.Statement (.wrFifo k b) :=
  EncodedFields.of_commandWord _ _ _

theorem EncodedFields.rdCtrl (k : Fin 2) : EncodedFields.Statement (.rdCtrl k) :=
  EncodedFields.of_commandWord _ _ _

theorem EncodedFields.wrCtrl (k : Fin 2) (b : Byte) : EncodedFields.Statement (.wrCtrl k b) :=
  EncodedFields.of_commandWord _ _ _

theorem EncodedFields.rdXfer (k : Fin 2) : EncodedFields.Statement (.rdXfer k) :=
  EncodedFields.of_commandWord _ _ _

theorem EncodedFields.wrXfer (k : Fin 2) (b : Byte) : EncodedFields.Statement (.wrXfer k b) :=
  EncodedFields.of_commandWord _ _ _

theorem EncodedFields.rdStat (k : Fin 2) : EncodedFields.Statement (.rdStat k) :=
  EncodedFields.of_commandWord _ _ _

theorem EncodedFields.wrStat (k : Fin 2) (b : Byte) : EncodedFields.Statement (.wrStat k b) :=
  EncodedFields.of_commandWord _ _ _

theorem EncodedFields.step : EncodedFields.Statement (.step) :=
  EncodedFields.of_commandWord _ _ _

theorem EncodedFields.ack : EncodedFields.Statement (.ack) :=
  EncodedFields.of_commandWord _ _ _

theorem EncodedFields.reset : EncodedFields.Statement (.reset) :=
  EncodedFields.of_commandWord _ _ _

theorem EncodedFields.reserved (op : BitVec 3) : EncodedFields.Statement (.reserved op) :=
  EncodedFields.of_commandWord _ _ _

end Sys2Proof.Laws
end

