-- ==== Sys2Proof/Laws/Registers.lean ====
section
/-! SUPPORT. Reading and writing one byte of a register, bit by bit (R120, R121). -/

namespace Sys2Proof.Machine

theorem regReadByte_getLsbD {w : Nat} (r : BitVec w) (k j : Nat) :
    (regReadByte r k).getLsbD j = (decide (j < 8) && r.getLsbD (8 * k + j)) := by
  simp [regReadByte, BitVec.getLsbD_extractLsb']

/-- A byte written replaces bits [8k+7:8k] and no other (R121). -/
theorem regWriteByte_getLsbD {w : Nat} (r : BitVec w) (k : Nat) (b : Byte) (j : Nat) (hj : j < w) :
    (regWriteByte r k b).getLsbD j = if 8 * k ≤ j ∧ j < 8 * k + 8 then b.getLsbD (j - 8 * k) else r.getLsbD j := by
  have hff : ∀ i, (255#w).getLsbD i = (decide (i < 8) && decide (i < w)) := by
    intro i
    rw [BitVec.getLsbD_ofNat]
    have h : (255 : Nat) = 2 ^ 8 - 1 := by norm_num
    rw [h, Nat.testBit_two_pow_sub_one, Bool.and_comm]
  simp only [regWriteByte, BitVec.getLsbD_or, BitVec.getLsbD_and, BitVec.getLsbD_not, BitVec.getLsbD_shiftLeft,
    BitVec.getLsbD_setWidth, hff, hj, decide_true, Bool.true_and]
  by_cases h1 : j < 8 * k
  · have : ¬ (8 * k ≤ j ∧ j < 8 * k + 8) := by omega
    simp [h1, this]
  · by_cases h2 : j < 8 * k + 8
    · have h3 : 8 * k ≤ j ∧ j < 8 * k + 8 := by omega
      have h4 : j - 8 * k < 8 := by omega
      have h5 : j - 8 * k < w := by omega
      simp [h1, h3, h4, h5]
    · have h3 : ¬ (8 * k ≤ j ∧ j < 8 * k + 8) := by omega
      have h4 : ¬ j - 8 * k < 8 := by omega
      simp [h1, h3, h4, BitVec.getLsbD_of_ge b (j - 8 * k) (by omega)]

/-- The byte just written is the byte read (R154). -/
theorem regReadByte_regWriteByte_same {w : Nat} (r : BitVec w) (k : Nat) (b : Byte) (hk : 8 * k + 8 ≤ w) :
    regReadByte (regWriteByte r k b) k = b := by
  apply BitVec.eq_of_getLsbD_eq
  intro j hj
  have h1 : 8 * k ≤ 8 * k + j ∧ 8 * k + j < 8 * k + 8 := by omega
  rw [regReadByte_getLsbD, regWriteByte_getLsbD r k b _ (by omega), if_pos h1]
  simp [hj]

/-- Writing one byte leaves the others as they were (R121). -/
theorem regReadByte_regWriteByte_other {w : Nat} (r : BitVec w) (k l : Nat) (b : Byte) (hl : 8 * l + 8 ≤ w) (h : k ≠ l) :
    regReadByte (regWriteByte r k b) l = regReadByte r l := by
  apply BitVec.eq_of_getLsbD_eq
  intro j hj
  have h1 : ¬ (8 * k ≤ 8 * l + j ∧ 8 * l + j < 8 * k + 8) := by omega
  rw [regReadByte_getLsbD, regWriteByte_getLsbD r k b _ (by omega), if_neg h1, regReadByte_getLsbD]

end Sys2Proof.Machine
end

