-- ==== Sys2Proof/Laws/Step.lean ====
section
/-! SUPPORT. Taking a command, and running a list of commands one after another. -/

namespace Sys2Proof.Machine

theorem takeCommand_nil (s : State) (h : s.pending = []) : takeCommand s = none := by
  simp [takeCommand, h]

theorem takeCommand_cons (s : State) (c : Command) (rest : List Command) (h : s.pending = c :: rest) :
    takeCommand s = some (c, { s with pending := rest }) := by
  simp [takeCommand, h]

/-- What a step that answers a next state did: nothing, with no command issued, or the oldest command. -/
theorem step_cases {s t : State} (h : step s = .next t) :
    (s.pending = [] ∧ t = s) ∨
    ∃ c rest, s.pending = c :: rest ∧ exec (decodeWord c) { s with pending := rest } = .next t := by
  cases hp : s.pending with
  | nil =>
    rw [step, takeCommand_nil s hp] at h
    cases h
    exact .inl ⟨rfl, rfl⟩
  | cons c rest =>
    rw [step, takeCommand_cons s c rest hp] at h
    exact .inr ⟨c, rest, rfl, h⟩

theorem run_zero (s : State) : Host.Core.run Sys2Proof.core 0 s = .next s := rfl

/-- A run of one step that answers a next state goes on from that state. -/
theorem run_succ_next (n : Nat) {s t : State} (h : step s = .next t) :
    Host.Core.run Sys2Proof.core (n + 1) s = Host.Core.run Sys2Proof.core n t := by
  have hc : Sys2Proof.core.step s = .next t := h
  simp only [Host.Core.run, hc]

/-- A run that meets a refusal ends in it. -/
theorem run_succ_refused (n : Nat) {s : State} {r : Refusal} (h : step s = .refused r) :
    Host.Core.run Sys2Proof.core (n + 1) s = .refused r := by
  have hc : Sys2Proof.core.step s = .refused r := h
  simp only [Host.Core.run, hc]

/-- A step answers a next state or a refusal: there is no fault (R270). -/
theorem step_next_or_refused (s : State) : (∃ t, step s = .next t) ∨ ∃ r, step s = .refused r := by
  cases h : step s with
  | next t => exact .inl ⟨t, rfl⟩
  | fault r => cases r
  | refused r => exact .inr ⟨r, rfl⟩

/-- A run of some steps and then more is the run of the more from where the first ended. -/
theorem run_add (m n : Nat) {s t : State} (h : Host.Core.run Sys2Proof.core m s = .next t) :
    Host.Core.run Sys2Proof.core (m + n) s = Host.Core.run Sys2Proof.core n t := by
  induction m generalizing s with
  | zero =>
    cases h
    rw [Nat.zero_add]
  | succ m ih =>
    rw [Nat.add_right_comm]
    rcases step_next_or_refused s with ⟨u, hu⟩ | ⟨r, hr⟩
    · rw [run_succ_next _ hu] at h ⊢
      exact ih h
    · rw [run_succ_refused _ hr] at h
      cases h

end Sys2Proof.Machine
end

