-- ==== Sys2Proof/Laws/Voice.lean ====
section
/-! SUPPORT. The tick of one voice: every outcome it can have, once (R202 to R211). -/

namespace Sys2Proof.Machine

open Sys2Proof.Config

/-- The tick of an Idle voice (R202). -/
theorem voiceTick_idle (P : Params) (m : Memory) (x : Voice) (h : x.playing = false) :
    voiceTick P m x = (Emission.silent, x.idleTick P) := by
  simp [voiceTick, h]

/-- The tick of a playing voice: refill, emit, move (R203 to R210). -/
theorem voiceTick_playing (P : Params) (m : Memory) (x : Voice) (h : x.playing = true) :
    voiceTick P m x = (⟨true, (x.refill P m).emitted⟩, (x.refill P m).move P m) := by
  simp [voiceTick, h]

/-- A valid cache is used as it is (R203). -/
theorem Voice.refill_valid (P : Params) (m : Memory) (x : Voice) (h : x.cacheValid = true) : x.refill P m = x := by
  simp [Voice.refill, h]

/-- An empty cache is filled from the block at the current address, and the history replaced (R203). -/
theorem Voice.refill_empty (P : Params) (m : Memory) (x : Voice) (h : x.cacheValid = false) :
    x.refill P m =
      { x with
        cache := (P.decode (readBlock P m x.cur) x.hist).1
        hist := (P.decode (readBlock P m x.cur) x.hist).2
        cacheValid := true } := by
  simp [Voice.refill, h]

/-- A refill touches the cache, the history and the valid bit only, and leaves the cache valid. -/
theorem Voice.refill_fields (P : Params) (m : Memory) (x : Voice) :
    x.refill P m = { x with cache := (x.refill P m).cache, hist := (x.refill P m).hist, cacheValid := true } := by
  unfold Voice.refill
  split
  · next h => simp [← h]
  · rfl

/-- Where a move ends: inside the same sample, across the block boundary, or at a flag check (R206 to R210). -/
theorem Voice.move_cases (P : Params) (m : Memory) (x : Voice) :
    (x.advanced / 4096 = x.index ∧ x.move P m = x.moved) ∨
    (x.advanced / 4096 ≠ x.index ∧ subPosLimit ≤ x.advanced ∧ x.move P m = x.cross) ∨
    (x.advanced / 4096 ≠ x.index ∧ x.advanced < subPosLimit ∧
      x.move P m = (x.moved.applyLoopStart (flagByte P m x.cur)).applyLoopEnd (flagByte P m x.cur)) := by
  unfold Voice.move
  split
  · next h => exact .inl ⟨h, rfl⟩
  · next h =>
    split
    · next h2 => exact .inr (.inl ⟨h, h2, rfl⟩)
    · next h2 => exact .inr (.inr ⟨h, by omega, rfl⟩)

/-- Both flag checks as one record: the repeat point, the current address and the state after them (R209, R210). -/
theorem Voice.applyFlags (f : Byte) (x : Voice) :
    (x.applyLoopStart f).applyLoopEnd f =
      { x with
        repeatAddr := if loopStart f then x.cur else x.repeatAddr
        cur := if loopEnd f then (if loopStart f then x.cur else x.repeatAddr) else x.cur
        playing := if loopEnd f then false else x.playing } := by
  unfold Voice.applyLoopStart Voice.applyLoopEnd
  by_cases h1 : loopStart f = true <;> by_cases h2 : loopEnd f = true <;> simp [h1, h2]

/-- A tick changes none of the registers only the host writes. -/
theorem voiceTick_hostRegisters (P : Params) (m : Memory) (x : Voice) :
    (voiceTick P m x).2 =
      { (voiceTick P m x).2 with
        volL := x.volL, volR := x.volR, rate := x.rate, start := x.start, adsrCfg := x.adsrCfg, adsrVol := x.adsrVol } := by
  by_cases h : x.playing = true
  · rw [voiceTick_playing P m x h]
    have hr := Voice.refill_fields P m x
    rcases Voice.move_cases P m (x.refill P m) with ⟨-, hm⟩ | ⟨-, -, hm⟩ | ⟨-, -, hm⟩
    · simp only [hm, Voice.moved]; rw [hr]
    · simp only [hm, Voice.cross]; rw [hr]
    · simp only [hm, Voice.applyFlags, Voice.moved]; rw [hr]
  · rw [voiceTick_idle P m x (by simpa using h)]
    simp only [Voice.idleTick]
    split <;> rfl

/-- A tick keeps the position inside the block (R57). -/
theorem voiceTick_subPos_lt (P : Params) (m : Memory) (x : Voice) (h : x.subPos.toNat < subPosLimit) :
    (voiceTick P m x).2.subPos.toNat < subPosLimit := by
  by_cases hp : x.playing = true
  · rw [voiceTick_playing P m x hp]
    have hr := Voice.refill_fields P m x
    have hsub : (x.refill P m).subPos = x.subPos := by rw [hr]
    have hadv : (x.refill P m).advanced ≤ x.subPos.toNat + 4096 := by
      simp only [Voice.advanced, hsub, rateUnity]; omega
    simp only [subPosLimit] at h ⊢
    rcases Voice.move_cases P m (x.refill P m) with ⟨hi, hm⟩ | ⟨-, -, hm⟩ | ⟨-, hl, hm⟩
    · simp only [hm, Voice.moved, BitVec.toNat_ofNat]
      simp only [Voice.index, hsub] at hi
      omega
    · simp only [hm, Voice.cross_subPos, BitVec.toNat_ofNat, subPosLimit]
      omega
    · simp only [hm, Voice.applyFlags, Voice.moved, BitVec.toNat_ofNat]
      simp only [subPosLimit] at hl
      omega
  · rw [voiceTick_idle P m x (by simpa using hp)]
    simp only [Voice.idleTick]
    split <;> exact h

end Sys2Proof.Machine
end

