-- ==== Sys2Proof/Tests/Slice0.lean ====
section
/-! SUPPORT. The model's own tests. Expected results are those of spec/95_test_vectors.md (its row is named at each test) or
are worked by hand from the rule named. Then one witness for each statement that has hypotheses: a concrete input that meets
them all. -/

namespace Sys2Proof.Tests

open Sys2Proof.Config Sys2Proof.Machine Sys2Proof.Claims

/-! ## Well-formedness: each check refuses an ill-formed term -/

theorem test_wellformed_refuses_mapped_read : (Instr.rdUnmapped 0x1C00).wellFormed = false := by decide
theorem test_wellformed_refuses_mapped_write : (Instr.wrUnmapped 0x1DB3 0).wellFormed = false := by decide
theorem test_wellformed_refuses_known_op : (Instr.reserved 4).wellFormed = false := by decide
theorem test_wellformed_accepts :
    (Instr.rdUnmapped 0x1BFF).wellFormed = true ∧ (Instr.wrUnmapped 0x1DB4 0).wellFormed = true ∧
    (Instr.reserved 5).wellFormed = true := by decide

/-! ## Decoding: a word written out for every constructor (30_encoding.md R90, R92, R93) -/

/-- Voice registers; vectors E1, E5, E16, E17 among them. -/
theorem test_decode_voice_words :
    decodeWord 0x000001C1000 = .rdVoll 1 0 ∧ decodeWord 0x100001C0134 = .wrVoll 0 1 0x34 ∧
    decodeWord 0x000001C1300 = .rdVolr 1 1 ∧ decodeWord 0x100001D7240 = .wrVolr 23 0 0x40 ∧
    decodeWord 0x000001C2400 = .rdRate 2 0 ∧ decodeWord 0x100001C0510 = .wrRate 0 1 0x10 ∧
    decodeWord 0x000001CF700 = .rdStart 15 1 ∧ decodeWord 0x100001D0610 = .wrStart 16 0 0x10 ∧
    decodeWord 0x000001D1B00 = .rdAdsrcfg 17 3 ∧ decodeWord 0x100001C1AEF = .wrAdsrcfg 1 2 0xEF ∧
    decodeWord 0x000001C0C00 = .rdAdsrvol 0 0 ∧ decodeWord 0x100001C0DFF = .wrAdsrvol 0 1 0xFF ∧
    decodeWord 0x000001C0E00 = .rdRepeat 0 0 ∧ decodeWord 0x100001D7F12 = .wrRepeat 23 1 0x12 := by
  exact ⟨rfl, rfl, rfl, rfl, rfl, rfl, rfl, rfl, rfl, rfl, rfl, rfl, rfl, rfl⟩

/-- Global registers; vector E6 among them. -/
theorem test_decode_global_words :
    decodeWord 0x000001D8000 = .rdMvoll 0 ∧ decodeWord 0x100001D817F = .wrMvoll 1 0x7F ∧
    decodeWord 0x000001D8300 = .rdMvolr 1 ∧ decodeWord 0x100001D82FF = .wrMvolr 0 0xFF ∧
    decodeWord 0x000001D8500 = .rdRvoll 1 ∧ decodeWord 0x100001D8401 = .wrRvoll 0 1 ∧
    decodeWord 0x000001D8600 = .rdRvolr 0 ∧ decodeWord 0x100001D8702 = .wrRvolr 1 2 ∧
    decodeWord 0x000001D9B00 = .rdChrvb 3 ∧ decodeWord 0x100001D9803 = .wrChrvb 0 3 ∧
    decodeWord 0x000001DB000 = .rdCdvoll 0 ∧ decodeWord 0x100001DB104 = .wrCdvoll 1 4 ∧
    decodeWord 0x000001DB300 = .rdCdvolr 1 ∧ decodeWord 0x100001DB205 = .wrCdvolr 0 5 := by
  exact ⟨rfl, rfl, rfl, rfl, rfl, rfl, rfl, rfl, rfl, rfl, rfl, rfl, rfl, rfl⟩

/-- The commands without operands; vectors E10 to E15. -/
theorem test_decode_other_words :
    decodeWord 0x20000000000 = .step ∧ decodeWord 0x2FFFFFFFFFF = .step ∧ decodeWord 0x30000000000 = .ack ∧
    decodeWord 0x40000000000 = .reset ∧ decodeWord 0x50000000000 = .reserved 5 ∧
    decodeWord 0x7FFFFFFFFFF = .reserved 7 := by decide

/-- Unmapped addresses; vectors E7, E8. -/
theorem test_decode_unmapped_words :
    decodeWord 0x0FFFFFFFF00 = .rdUnmapped 0xFFFFFFFF ∧ decodeWord 0x100001DB412 = .wrUnmapped 0x1DB4 0x12 := by decide

/-- Key masks; vectors E2, E3, E4 among them. -/
theorem test_decode_key_words :
    decodeWord 0x000001D8B00 = .rdKon 3 ∧ decodeWord 0x100001D8A00 = .wrKon 2 0 ∧
    decodeWord 0x100001D8B00 = .wrKonCommit 0 ∧
    decodeWord 0x000001D8C00 = .rdKoff 0 ∧ decodeWord 0x100001D8E07 = .wrKoff 2 7 ∧
    decodeWord 0x100001D8F00 = .wrKoffCommit 0 := by
  exact ⟨rfl, rfl, rfl, rfl, rfl, rfl⟩

/-- The staging path, control and status; vector E9 among them. -/
theorem test_decode_control_words :
    decodeWord 0x000001DA500 = .rdIrqa 1 ∧ decodeWord 0x100001DA408 = .wrIrqa 0 8 ∧
    decodeWord 0x000001DA600 = .rdStga 0 ∧ decodeWord 0x100001DA7FF = .wrStga 1 0xFF ∧
    decodeWord 0x000001DA900 = .rdFifo 1 ∧ decodeWord 0x100001DA9AB = .wrFifo 1 0xAB ∧
    decodeWord 0x000001DAB00 = .rdCtrl 1 ∧ decodeWord 0x100001DAA3F = .wrCtrl 0 0x3F ∧
    decodeWord 0x000001DAD00 = .rdXfer 1 ∧ decodeWord 0x100001DACFF = .wrXfer 0 0xFF ∧
    decodeWord 0x000001DAE00 = .rdStat 0 ∧ decodeWord 0x100001DAF12 = .wrStat 1 0x12 := by
  exact ⟨rfl, rfl, rfl, rfl, rfl, rfl, rfl, rfl, rfl, rfl, rfl, rfl⟩

/-- The encodings of program P4, lines 8 and 17. -/
theorem test_encode : encode (.wrVoll 1 1 0x7F) = 0x100001C117F ∧ encode .ack = 0x30000000000 := by decide

/-- A raw number wider than a command word is refused by name (R98). -/
theorem test_decode_refuses_wide_number :
    decodeBits 48 0x80000000000 = .error .widerThanCommand ∧ decodeTableWord 48 0x80000000000 = none ∧
    decodeTableWord 48 0x20000000000 = some .step := ⟨rfl, rfl, rfl⟩

/-- Neighbouring rows of the table (R99). -/
theorem test_table_mnemonic :
    tableMnemonic 0x100001D8A00 = some "WR.KON" ∧ tableMnemonic 0x100001D8B00 = some "WR.KON.COMMIT" ∧
    tableMnemonic 0x000001D9000 = some "RD.UNMAPPED" := by decide

/-- Program P1 line 4, program P4 line 3, and a comment (R100, R101). -/
theorem test_assembly_text :
    (parseLine "vreg 0, 0, 0x7FFF ; volL".toList).map assemble = some [0x100001C00FF, 0x100001C017F] ∧
    (parseLine "load 0x0102, 0x80, 0x00".toList).map assemble =
      some [0x100001DA602, 0x100001DA701, 0x100001DA880, 0x100001DA800] ∧
    parseLine "wr 0x1D88, 0x100".toList = none := by decide

/-! ## A small state to test on -/

/-- The test decoder of 95_test_vectors.md section 0. -/
def stubDecode (b : Block) (h : History) : Vector Sample blockSamples × History :=
  let s (k : Nat) : Sample := BitVec.ofNat 16 (256 * b[0].toNat + k) + h.1
  (Vector.ofFn fun k => s k.val, (s 27, s 26))

/-- Parameters with the stub decoder, memory of zeros and four frames of output. -/
def stub : Params := ⟨3, stubDecode, fun _ => 0, gainQ15, statusMirrorMask, false⟩

/-- The reset state of those parameters. -/
def small : State := State.resetWith stub

/-- Block 0x0010 with first byte 1 and flag byte f, block 0x0012 with first byte 2. -/
def blocks (f : Byte) : Memory := [(0x80, 1), (0x81, f), (0x90, 2)]

/-- The voice of vectors T1 to T13 after its key-on, at a rate. -/
def keyed (rate : Reg16) : Voice :=
  { Voice.atReset with rate := rate, start := 0x10, repeatAddr := 0x10, cur := 0x10, playing := true }

/-- That voice in the middle of block 0x0010, at a position, its cache filled. -/
def inBlock (rate : Reg16) (pos : BitVec 17) : Voice :=
  { keyed rate with subPos := pos, cacheValid := true, cache := Vector.ofFn fun k => BitVec.ofNat 16 (256 + k.val),
                    hist := (283, 282) }

/-- The state a command leaves, or the one it started from where it has no transition. -/
def after (i : Instr) (s : State) : State :=
  match exec i s with
  | .next t => t
  | _ => s

/-! ## Registers -/

/-- A1 and A2. -/
theorem test_volL : ((after (.wrVoll 1 1 0xAB) (after (.wrVoll 1 0 0x34) small)).voice 1).volL = 0xAB34 ∧
    (after (.rdVoll 1 1) (after (.wrVoll 1 1 0xAB) small)).rdata = some 0xAB := by decide
theorem test_volR : ((after (.wrVolr 0 1 0x40) small).voice 0).volR = 0x4000 ∧
    (after (.rdVolr 0 1) (after (.wrVolr 0 1 0x40) small)).rdata = some 0x40 := by decide
/-- A7: a rate above unity is stored as it is. -/
theorem test_rate : ((after (.wrRate 0 1 0xFF) (after (.wrRate 0 0 0xFF) small)).voice 0).rate = 0xFFFF ∧
    (after (.rdRate 0 1) (after (.wrRate 0 1 0xFF) small)).rdata = some 0xFF := by decide
/-- A5 and A6: either byte resets the position and leaves the current address. -/
theorem test_start : ((after (.wrStart 0 0 0x20) (small.setVoice 0 (inBlock 0 0x5000))).voice 0) =
    { inBlock 0 0 with start := 0x0020 } ∧
    ((after (.wrStart 0 1 0) (small.setVoice 0 (inBlock 0 0x5000))).voice 0).subPos = 0 := by decide
theorem test_start_read : (after (.rdStart 0 0) (small.setVoice 0 (inBlock 0 0x5000))).rdata = some 0x10 ∧
    ((after (.rdStart 0 0) (small.setVoice 0 (inBlock 0 0x5000))).voice 0).subPos = 0x5000 := by decide
/-- A4. -/
theorem test_adsrCfg : ((after (.wrAdsrcfg 0 2 0x02) small).voice 0).adsrCfg = 0x00020000 ∧
    (after (.rdAdsrcfg 0 2) (after (.wrAdsrcfg 0 2 0x02) small)).rdata = some 0x02 := by decide
theorem test_adsrVol : ((after (.wrAdsrvol 3 1 0x7F) small).voice 3).adsrVol = 0x7F00 ∧
    (after (.rdAdsrvol 3 1) (after (.wrAdsrvol 3 1 0x7F) small)).rdata = some 0x7F := by decide
/-- A3: the last byte of the voice range. -/
theorem test_repeat : ((after (.wrRepeat 23 1 0xBE) small).voice 23).repeatAddr = 0xBE00 ∧
    (after (.rdRepeat 23 1) (after (.wrRepeat 23 1 0xBE) small)).rdata = some 0xBE ∧
    ((after (.wrRepeat 23 1 0xBE) small).voice 22).repeatAddr = 0 := by decide
theorem test_mvol : (after (.wrMvoll 1 0x7F) small).mvolL = 0x7F00 ∧ (after (.wrMvolr 0 0xFF) small).mvolR = 0x00FF ∧
    (after (.rdMvoll 1) (after (.wrMvoll 1 0x7F) small)).rdata = some 0x7F ∧
    (after (.rdMvolr 1) (after (.wrMvolr 0 0xFF) small)).rdata = some 0 := by decide
/-- A8. -/
theorem test_rvol : (after (.wrRvoll 1 0x80) small).rvolL = 0x8000 ∧ (after (.wrRvolr 0 1) small).rvolR = 1 ∧
    (after (.rdRvoll 1) (after (.wrRvoll 1 0x80) small)).rdata = some 0x80 ∧
    (after (.rdRvolr 0) (after (.wrRvolr 0 1) small)).rdata = some 1 := by decide
/-- A12, and byte 3, which commits nothing. -/
theorem test_chrvb : (after (.wrChrvb 3 1) (after (.wrChrvb 0 0xFF) small)).chrvb = 0x010000FF ∧
    (after (.rdChrvb 0) (after (.wrChrvb 0 0xFF) small)).rdata = some 0xFF ∧
    ((after (.wrChrvb 3 1) (after (.wrChrvb 0 0xFF) small)).voice 0).playing = false := by decide
theorem test_cdvol : (after (.wrCdvoll 0 0x12) small).cdvolL = 0x12 ∧ (after (.wrCdvolr 1 0x34) small).cdvolR = 0x3400 ∧
    (after (.rdCdvoll 0) (after (.wrCdvoll 0 0x12) small)).rdata = some 0x12 ∧
    (after (.rdCdvolr 1) (after (.wrCdvolr 1 0x34) small)).rdata = some 0x34 := by decide
/-- A10 and A11. -/
theorem test_unmapped : (after (.rdUnmapped 0x1D90) { small with ctrl := 0xFFFF }).rdata = some 0 ∧
    after (.wrUnmapped 0x1D9C 0x55) small = small := ⟨by decide, rfl⟩

/-! ## Key masks -/

/-- K1: the low bytes start nothing. -/
theorem test_kon_store : (after (.wrKon 0 1) small).kon = 1 ∧ ((after (.wrKon 0 1) small).voice 0).playing = false ∧
    (after (.rdKon 0) (after (.wrKon 0 1) small)).rdata = some 1 := by decide
/-- K2 and K9: the position and the cache stay. -/
theorem test_kon_commit :
    (after (.wrKonCommit 0) ({ small with kon := 1 }.setVoice 0 { inBlock 0 0x3000 with start := 0x40, adsrVol := 5 })).voice 0 =
      { inBlock 0 0x3000 with start := 0x40, cur := 0x40, repeatAddr := 0x40 } := by decide +kernel
/-- K6: byte 3 holds no voice's bit; K11: a stale bit starts its voice. -/
theorem test_kon_commit_mask :
    (after (.wrKonCommit 1) small).kon = 0x01000000 ∧ ((after (.wrKonCommit 1) small).voice 0).playing = false ∧
    ((after (.wrKonCommit 0) { small with kon := 2 }).voice 1).playing = true := by decide +kernel
/-- K7. -/
theorem test_koff_commit :
    (after (.wrKoffCommit 0) ({ small with koff := 1 }.setVoice 0 (inBlock 0 0x3000))).voice 0 =
      { inBlock 0 0x3000 with playing := false } := by decide +kernel
theorem test_koff_store : (after (.wrKoff 0 1) (small.setVoice 0 (keyed 0))).koff = 1 ∧
    ((after (.wrKoff 0 1) (small.setVoice 0 (keyed 0))).voice 0).playing = true ∧
    (after (.rdKoff 0) (after (.wrKoff 0 1) small)).rdata = some 1 := by decide

/-! ## Staging, control and status -/

/-- G2 and G3. -/
theorem test_stga : (after (.wrStga 0 5) small).scur = 0x28 ∧
    (after (.wrStga 1 1) (after (.wrStga 0 5) small)).stga = 0x105 ∧
    (after (.wrStga 1 1) (after (.wrStga 0 5) small)).scur = 0x828 := by decide
/-- G15: the register, not the cursor. -/
theorem test_stga_read : (after (.rdStga 0) { small with stga := 4, scur := 0x23 }).rdata = some 4 := by decide
/-- G5: the cursor wraps. -/
theorem test_fifo_wraps : (stageByte stub 0xAB { small with scur := 0x7FFFF }).mem = [(0x7FFFF, 0xAB)] ∧
    (stageByte stub 0xAB { small with scur := 0x7FFFF }).scur = 0 := by decide
/-- Writing the byte an unlisted address reads as takes the entry out. -/
theorem test_fifo_canonical : (stageByte stub 0 { small with mem := [(0, 7), (1, 8)] }).mem = [(1, 8)] := by decide
/-- G4 and G7: either address writes; a read moves nothing. -/
theorem test_fifo : (after (.wrFifo 1 0x22) { small with scur := 0x801 }).scur = 0x802 ∧
    (after (.rdFifo 0) { small with scur := 0x801 }).rdata = some 0 ∧
    (after (.rdFifo 0) { small with scur := 0x801 }).scur = 0x801 := by decide
/-- G8: the mirror replaces bits [5:0]. -/
theorem test_stat_mirror : (after (.rdStat 0) { small with stat := 0xFFFF }).rdata = some 0xC0 ∧
    (after (.rdStat 0) { small with stat := 0xFFFF }).stat = 0xFFC0 := by decide
/-- G9: a read of the high byte refreshes too. -/
theorem test_stat_high : (after (.rdStat 1) { small with ctrl := 0xC03F }).rdata = some 0 ∧
    (after (.rdStat 1) { small with ctrl := 0xC03F }).stat = 0x003F := by decide
/-- G11 and G12: a write stores all bits of its byte. -/
theorem test_stat_write : (after (.wrStat 0 0x3F) small).stat = 0x3F ∧ (after (.wrStat 1 0x12) small).stat = 0x1200 := by
  decide
/-- G10, G13, G14: stored words without another effect. -/
theorem test_stored_words : (after (.wrCtrl 0 0x15) small).ctrl = 0x15 ∧ (after (.wrIrqa 1 2) small).irqa = 0x200 ∧
    (after (.wrXfer 1 0xFF) small).xfer = 0xFF00 := by decide
theorem test_stored_words_read : (after (.rdCtrl 1) { small with ctrl := 0x1500 }).rdata = some 0x15 ∧
    (after (.rdIrqa 1) { small with irqa := 0x200 }).rdata = some 2 ∧
    (after (.rdXfer 0) { small with xfer := 0xFF00 }).rdata = some 0 := by decide

/-! ## One tick of a voice -/

/-- T1, tick 1: refill, emit, advance. -/
theorem test_tick_refills :
    voiceTick stub (blocks 0) (keyed 0x1000) = (⟨true, 256⟩, inBlock 0x1000 0x1000) := by decide
/-- T1, tick 28: the crossing reads no flag. -/
theorem test_tick_crosses :
    voiceTick stub (blocks 1) (inBlock 0x1000 0x1B000) =
      (⟨true, 283⟩, { inBlock 0x1000 0 with cur := 0x12, cacheValid := false }) := by decide
/-- T1, tick 29: the next block is decoded with the history of the last. -/
theorem test_tick_keeps_history :
    (voiceTick stub (blocks 0) { inBlock 0x1000 0 with cur := 0x12, cacheValid := false }).1 = ⟨true, 795⟩ ∧
    (voiceTick stub (blocks 0) { inBlock 0x1000 0 with cur := 0x12, cacheValid := false }).2.hist = (822, 821) := by decide
/-- T2, tick 1, and T3: without a new sample index no flag is read. -/
theorem test_tick_within_a_sample :
    (voiceTick stub (blocks 1) (keyed 0x0800)).2 = inBlock 0x0800 0x00800 ∧
    (voiceTick stub (blocks 1) (keyed 0)).2 = inBlock 0 0 := by decide
/-- T4: the rate is clamped to unity. -/
theorem test_tick_clamps_rate : (voiceTick stub (blocks 0) (inBlock 0x2000 0x1000)).2.subPos = 0x2000 := by decide
/-- T6, ticks 2 and 29. -/
theorem test_tick_fraction :
    (voiceTick stub (blocks 0) (inBlock 0x0FFF 0x00FFF)).2.subPos = 0x01FFE ∧
    (voiceTick stub (blocks 0) (inBlock 0x0FFF 0x1BFE4)).2.subPos = 0x00FE3 := by decide
/-- T7: the current address wraps. -/
theorem test_tick_address_wraps :
    (voiceTick stub (blocks 0) { inBlock 0x1000 0x1B000 with cur := 0xFFFE }).2.cur = 0 := by decide
/-- T8: a block over the end of memory; its flag byte is at 0x7FFF9. -/
theorem test_block_wraps : flagByte stub [(0x7FFF9, 9)] 0xFFFF = 9 ∧ (readBlock stub [(7, 5)] 0xFFFF)[15] = 5 := by decide
/-- T9: loop end. -/
theorem test_tick_loop_end :
    (voiceTick stub (blocks 1) (inBlock 0x1000 0)).2 = { inBlock 0x1000 0x1000 with playing := false } := by decide
/-- T10: loop start is taken before loop end. -/
theorem test_tick_loop_start_and_end :
    (voiceTick stub (blocks 5) { inBlock 0x1000 0 with repeatAddr := 0x99 }).2 =
      { inBlock 0x1000 0x1000 with playing := false } := by decide
/-- T11: loop start alone; T12: bit 1 alone. -/
theorem test_tick_loop_start :
    (voiceTick stub (blocks 4) { inBlock 0x1000 0 with repeatAddr := 0x99 }).2 = inBlock 0x1000 0x1000 ∧
    (voiceTick stub (blocks 2) { inBlock 0x1000 0 with repeatAddr := 0x99 }).2 =
      { inBlock 0x1000 0x1000 with repeatAddr := 0x99 } := by decide
/-- T15: an Idle voice, with the parameter at either value. -/
theorem test_tick_idle :
    voiceTick stub [] { inBlock 0x1000 0 with playing := false } =
      (⟨false, 0⟩, { inBlock 0x1000 0 with playing := false }) ∧
    (voiceTick { stub with idleTickClearsCache := true } [] { inBlock 0x1000 0 with playing := false }).2.cacheValid =
      false := by decide

/-! ## The mixer and the output buffer -/

/-- One side of a frame: emissions with their volumes, and the main volume. -/
def side (es : List (Int × Reg16)) (main : Reg16) : Int :=
  quantise ((es.map fun e => contribution stub ⟨true, BitVec.ofInt 16 e.1⟩ e.2).sum * stub.volumeGain main)

/-- M1 to M3. -/
theorem test_mix_gains :
    side [(0x4000, 0x4000)] 0x4000 = 4095 ∧ side [(0x4000, 0x7FFF)] 0x4000 = 8191 ∧
    side [(0x7FFF, 0x7FFF)] 0x7FFF = 32764 ∧ side [(-32768, 0x7FFF)] 0x7FFF = -32765 := by decide
/-- M4, M5, M10: the ends of the range. -/
theorem test_mix_clamps :
    side [(-32768, 0x8000)] 0x8000 = -32767 ∧ side [(-32768, 0x8000)] 0x7FFF = 32766 ∧
    side (List.replicate 24 (0x7FFF, 0x7FFF)) 0x7FFF = 32767 ∧ side (List.replicate 24 (0x7FFF, 0x8000)) 0x7FFF = -32767 ∧
    side [(-32768, 0x7FFF)] 0x8000 = 32766 := by decide
/-- M6 to M8, M11: sums and truncation toward zero. -/
theorem test_mix_truncates :
    side [(1000, 0x7FFF), (-1000, 0x7FFF)] 0x7FFF = 0 ∧ side [(1, 0x7FFF)] 0x7FFF = 0 ∧
    side [(-3, 0x7FFF)] 0x7FFF = -2 ∧ side [(0x6000, 0x7FFF), (0x6000, 0x7FFF)] 0x4000 = 24574 := by decide
/-- O8: a silent frame fills the buffer. -/
theorem test_append_wraps :
    (mix stub (Vector.replicate 24 Emission.silent) { small with wp := 6, out := List.replicate 8 1 }).out =
      [1, 1, 1, 1, 1, 1, 0, 0] ∧
    (mix stub (Vector.replicate 24 Emission.silent) { small with wp := 6 }).wp = 0 ∧
    (mix stub (Vector.replicate 24 Emission.silent) { small with wp := 6 }).ready = true := by decide
/-- O1, with one voice at unity gains on the left: the first frame of program P1. -/
theorem test_step :
    (stepTick stub ({ small with mem := blocks 0, mvolL := 0x7FFF, mvolR := 0x7FFF }.setVoice 0
      { keyed 0x1000 with volL := 0x7FFF, volR := 0x4000 })).out = [255, 127, 0, 0, 0, 0, 0, 0] ∧
    (stepTick stub small).wp = 2 ∧ (stepTick stub small).ready = false := by decide
/-- The command STEP ticks the voice once. -/
theorem test_exec_step :
    (after .step (small.setVoice 0 (inBlock 0x0800 0x5000))).voice 0 = inBlock 0x0800 0x5800 ∧
    (after .step small).rdata = none := by
  refine ⟨?_, rfl⟩
  change (stepTick params (small.setVoice 0 (inBlock 0x0800 0x5000))).voice 0 = _
  rw [stepTick_voice]
  decide

/-! ## ACK, RESET, RESERVED and the command queue -/

/-- O4. -/
theorem test_ack : (after .ack { small with ready := true, wp := 2 }).ready = false ∧
    (after .ack { small with ready := true, wp := 2 }).wp = 2 := by decide
/-- X1, X2. -/
theorem test_reset : (after .reset { small with stat := 0xAAAA }).stat = 0 ∧
    resetCore stub { small with kon := 1, mem := [(0, 1)] } = small := by decide
/-- X3. -/
theorem test_reserved : exec (.reserved 6) small = .refused (.reservedCommand 6) := rfl
/-- The oldest command is taken first, and it alone. -/
theorem test_queue :
    takeCommand { small with pending := [0x30000000000, 0x20000000000] } =
      some (0x30000000000, { small with pending := [0x20000000000] }) := rfl

/-! ## Witnesses: inputs that meet all the hypotheses of a statement, clause by clause -/

/-- A state of the machine with one voice in a given condition, the flag byte of its block listed. -/
def withVoice (x : Voice) : State := { State.reset with mem := [(0x81, 0)] }.setVoice 0 x

theorem outCap_pos : 0 < outCap := by unfold outCap Params.outCap; omega

theorem reset_sound : Sound State.reset where
  positions := fun v => by rw [State.reset, State.voice_resetWith]; decide
  writeIndex := ⟨rfl, outCap_pos⟩
  capacity := List.length_replicate
  memory := rfl
  external := ⟨rfl, rfl⟩

theorem witness_StepRunsTheOldestCommand :
    (issueNext 0x20000000000 State.reset).pending = 0x20000000000 :: [] ∧ decodeWord 0x20000000000 = .step ∧
    Instr.step.WellFormed ∧ State.reset.pending = [] := ⟨rfl, rfl, rfl, rfl⟩

theorem witness_FetchedWordRunsNext :
    decodeTableWord 48 0x000001C1000 = some (.rdVoll 1 0) ∧ decodeTableWord 48 0x7FFFFFFFFFF = some (.reserved 7) :=
  ⟨rfl, rfl⟩

theorem witness_DecodeAfterEncodeIsIdentity :
    (Instr.rdVoll 23 1).WellFormed ∧ (Instr.wrUnmapped 0xFFFFFFFF 0xFF).WellFormed ∧ (Instr.reserved 5).WellFormed := by
  decide

theorem witness_IgnoredFieldsChangeNothing : (2 ≤ 2 ∧ 2 ≤ 4) ∧ 2 ≤ 4 ∧ 4 ≤ 4 := by decide

theorem witness_UnmappedAddresses :
    ¬ InMap (0x1BFF : PortAddr).toNat ∧ ¬ InMap (0x1D90 : PortAddr).toNat ∧ ¬ InMap (0x1D97 : PortAddr).toNat ∧
    ¬ InMap (0x1D9C : PortAddr).toNat ∧ ¬ InMap (0x1DA3 : PortAddr).toNat ∧ ¬ InMap (0x1DB4 : PortAddr).toNat ∧
    ¬ InMap (0xFFFFFFFF : PortAddr).toNat := by
  simp [InMap]

theorem witness_FifoWriteStoresAtTheCursor : MemoryCanonical State.reset := rfl

/-- A list of bytes with an address inside it and one outside it. -/
theorem witness_LoadSequenceFillsMemory :
    MemoryCanonical State.reset ∧ ([1, 2] : List Byte).length ≤ 0x80000 ∧ 1 < ([1, 2] : List Byte).length ∧
    ∀ i, i < ([1, 2] : List Byte).length → 2 % 0x80000 ≠ (8 * (0 : Reg16).toNat + i) % 0x80000 := by
  refine ⟨rfl, by decide, by decide, ?_⟩
  decide

theorem witness_StepLeavesIdleVoicesAlone : (State.reset.voice 0).playing = false := rfl

theorem witness_StepRefillsOnlyAnEmptyCache :
    ((withVoice (keyed 0)).voice 0).playing = true ∧ ((withVoice (keyed 0)).voice 0).cacheValid = false ∧
    ((withVoice (inBlock 0 0)).voice 0).playing = true ∧ ((withVoice (inBlock 0 0)).voice 0).cacheValid = true :=
  ⟨rfl, rfl, rfl, rfl⟩

/-- The last position before the index changes. -/
theorem witness_StepWithinASampleOnlyMoves :
    ((withVoice (inBlock 0x0FFF 0)).voice 0).playing = true ∧
    nextPosition (withVoice (inBlock 0x0FFF 0)) 0 / 4096 = sampleIndex (withVoice (inBlock 0x0FFF 0)) 0 := ⟨rfl, rfl⟩

/-- The first position outside the block. -/
theorem witness_StepCrossesIntoTheNextBlock :
    ((withVoice (inBlock 0x1000 0x1B000)).voice 0).playing = true ∧
    nextPosition (withVoice (inBlock 0x1000 0x1B000)) 0 / 4096 ≠ sampleIndex (withVoice (inBlock 0x1000 0x1B000)) 0 ∧
    0x1C000 ≤ nextPosition (withVoice (inBlock 0x1000 0x1B000)) 0 := ⟨rfl, by decide, by decide⟩

/-- The last position inside the block. -/
theorem witness_StepObeysTheLoopFlags :
    ((withVoice (inBlock 0x1000 0x1AFFF)).voice 0).playing = true ∧
    nextPosition (withVoice (inBlock 0x1000 0x1AFFF)) 0 / 4096 ≠ sampleIndex (withVoice (inBlock 0x1000 0x1AFFF)) 0 ∧
    nextPosition (withVoice (inBlock 0x1000 0x1AFFF)) 0 < 0x1C000 := ⟨rfl, by decide, by decide⟩

/-- Two states that differ in a register. -/
theorem witness_VoicesDoNotInfluenceEachOther :
    (∀ a, memoryByte State.reset a = memoryByte { State.reset with ctrl := 1 } a) ∧
    State.reset.voice 0 = State.voice { State.reset with ctrl := 1 } 0 := ⟨fun _ => rfl, rfl⟩

theorem witness_UnityRate :
    ((withVoice (keyed 0x1000)).voice 0).playing = true ∧ 0x1000 ≤ ((withVoice (keyed 0x1000)).voice 0).rate.toNat ∧
    ((withVoice (keyed 0x1000)).voice 0).subPos = 0 ∧ (flagsOf (withVoice (keyed 0x1000)) 0).getLsbD 0 = false ∧
    27 < 28 ∧ 28 ≤ 28 := ⟨rfl, by decide, rfl, rfl, by decide, by decide⟩

theorem witness_RateZeroNeverMoves :
    ((withVoice (keyed 0)).voice 0).playing = true ∧ ((withVoice (keyed 0)).voice 0).rate = 0 := ⟨rfl, rfl⟩

theorem witness_RekeyKeepsAStaleCache :
    ({ withVoice (inBlock 0 0) with kon := 1 } : State).kon.getLsbD (0 : Fin voiceCount) = true ∧
    (State.voice { withVoice (inBlock 0 0) with kon := 1 } 0).cacheValid = true := ⟨rfl, rfl⟩

theorem witness_StepMixesOneFrame :
    PositionsInBlock State.reset ∧ WriteIndexInBuffer State.reset ∧ BufferHasCapacity State.reset :=
  ⟨reset_sound.positions, reset_sound.writeIndex, reset_sound.capacity⟩

theorem witness_FrameValuesStayInRange : WriteIndexInBuffer State.reset ∧ BufferHasCapacity State.reset :=
  ⟨reset_sound.writeIndex, reset_sound.capacity⟩

/-- The last frame of the buffer, one that is not, and a slot outside the frame. -/
theorem witness_StepWrapsAndRaisesReady :
    ({ State.reset with wp := outCap - 2 } : State).wp + 2 = outCap ∧
    ({ State.reset with wp := outCap } : State).wp + 2 ≠ outCap ∧ (2 ≠ State.reset.wp ∧ 2 ≠ State.reset.wp + 1) := by
  refine ⟨?_, ?_, by decide, by decide⟩
  · change outCap - 2 + 2 = outCap
    unfold outCap Params.outCap
    omega
  · change outCap + 2 ≠ outCap
    omega

/-- Every voice Idle; a playing voice at volume 0, the others Idle; both main volumes 0. -/
theorem witness_SilentFrameIsStillAppended :
    (WriteIndexInBuffer State.reset ∧ BufferHasCapacity State.reset ∧
      ∀ v : Fin voiceCount, (State.reset.voice v).playing = false) ∧
    (WriteIndexInBuffer (withVoice (keyed 0)) ∧ BufferHasCapacity (withVoice (keyed 0)) ∧
      (∀ v : Fin voiceCount, ((withVoice (keyed 0)).voice v).playing = false ∨
        (((withVoice (keyed 0)).voice v).volL = 0 ∧ ((withVoice (keyed 0)).voice v).volR = 0)) ∧
      ((withVoice (keyed 0)).voice 0).playing = true ∧
      (withVoice (keyed 0)).mvolL = 0 ∧ (withVoice (keyed 0)).mvolR = 0) := by
  refine ⟨⟨reset_sound.writeIndex, reset_sound.capacity, fun v => ?_⟩,
    reset_sound.writeIndex, reset_sound.capacity, fun v => .inr ?_, rfl, rfl, rfl⟩
  · rw [State.reset, State.voice_resetWith]; rfl
  · rw [withVoice, State.voice_setVoice]
    split
    · exact ⟨rfl, rfl⟩
    · change (State.reset.voice v).volL = 0 ∧ (State.reset.voice v).volR = 0
      rw [State.reset, State.voice_resetWith]
      exact ⟨rfl, rfl⟩

theorem witness_StepsAdvanceWriteIndexModuloCapacity : WriteIndexInBuffer State.reset := reset_sound.writeIndex

theorem witness_ReservedCommandsAreRefused : 5 ≤ (5 : BitVec 3).toNat ∧ 5 ≤ (7 : BitVec 3).toNat := by decide

/-- One step of a STEP command, for the invariants. -/
theorem witness_StepKeepsInvariants :
    step (issueNext 0x20000000000 State.reset) = .next (stepTick params State.reset).finish ∧
    PositionsInBlock (issueNext 0x20000000000 State.reset) ∧ WriteIndexInBuffer (issueNext 0x20000000000 State.reset) ∧
    BufferHasCapacity (issueNext 0x20000000000 State.reset) ∧ MemoryCanonical (issueNext 0x20000000000 State.reset) :=
  ⟨rfl, reset_sound.positions, reset_sound.writeIndex, reset_sound.capacity, reset_sound.memory⟩

theorem witness_CanonicalMemoryIsItsBytes :
    MemoryCanonical State.reset ∧ MemoryCanonical { State.reset with ctrl := 1 } ∧
    ∀ a, memoryByte State.reset a = memoryByte { State.reset with ctrl := 1 } a := ⟨rfl, rfl, fun _ => rfl⟩

theorem witness_ExternalVolumeHoldsItsResetValue :
    step (issueNext 0x30000000000 State.reset) = .next { State.reset with ready := false } ∧
    ExternalVolumeStuck (issueNext 0x30000000000 State.reset) ∧
    ¬ (∃ w rest, (issueNext 0x30000000000 State.reset).pending = w :: rest ∧ decodeWord w = .reset) := by
  refine ⟨rfl, reset_sound.external, ?_⟩
  rintro ⟨w, rest, hw, hd⟩
  cases hw
  cases hd

theorem witness_RunsFromSoundStatesStaySound : Sound State.reset := reset_sound

/-- A FIFO write over a listed byte. -/
theorem witness_OnlyFifoWriteAndResetChangeMemory :
    exec (.wrFifo 0 2) { State.reset with mem := [(0, 1)] } =
      .next (stageByte params 2 { State.reset with mem := [(0, 1)] }).finish ∧
    (stageByte params 2 { State.reset with mem := [(0, 1)] }).finish.mem ≠ ({ State.reset with mem := [(0, 1)] } : State).mem := by
  refine ⟨rfl, ?_⟩
  change Memory.cells params.memInit 0 2 ++ [] ≠ [(0, 1)]
  unfold Memory.cells
  split <;> decide

/-- `playing` set by a key-on commit and cleared by a key-off commit. -/
theorem witness_FlagsHaveOnlyTheirWriters_playing :
    (State.voice { State.reset with kon := 1 } 0).playing = false ∧
    (exec (.wrKonCommit 0) { State.reset with kon := 1 } =
      .next (commitKeyOn { State.reset with kon := 1 }).finish) ∧
    ((commitKeyOn { State.reset with kon := 1 }).finish.voice 0).playing = true ∧
    exec (.wrKoffCommit 0) { withVoice (keyed 0) with koff := 1 } =
      .next (commitKeyOff { withVoice (keyed 0) with koff := 1 }).finish ∧
    (State.voice { withVoice (keyed 0) with koff := 1 } 0).playing = true ∧
    ((commitKeyOff { withVoice (keyed 0) with koff := 1 }).finish.voice 0).playing = false := by
  refine ⟨rfl, rfl, ?_, rfl, rfl, ?_⟩
  · rw [State.voice_finish, commitKeyOn_voice]; rfl
  · rw [State.voice_finish, commitKeyOff_voice]; rfl

/-- `cacheValid` set by STEP and cleared by RESET. -/
theorem witness_FlagsHaveOnlyTheirWriters_cacheValid :
    exec .step (withVoice (keyed 0)) = .next (stepTick params (withVoice (keyed 0))).finish ∧
    ((withVoice (keyed 0)).voice 0).cacheValid = false ∧
    ((stepTick params (withVoice (keyed 0))).finish.voice 0).cacheValid = true ∧
    exec .reset (withVoice (inBlock 0 0)) = .next State.reset ∧
    ((withVoice (inBlock 0 0)).voice 0).cacheValid = true ∧ (State.reset.voice 0).cacheValid = false := by
  refine ⟨rfl, rfl, ?_, rfl, rfl, rfl⟩
  rw [State.voice_finish, stepTick_voice]
  rfl

/-- `ready` set by STEP and cleared by ACK. -/
theorem witness_FlagsHaveOnlyTheirWriters_ready :
    exec .step { State.reset with wp := outCap - 2 } =
      .next (stepTick params { State.reset with wp := outCap - 2 }).finish ∧
    ({ State.reset with wp := outCap - 2 } : State).ready = false ∧
    (stepTick params { State.reset with wp := outCap - 2 }).finish.ready = true ∧
    exec .ack { State.reset with ready := true } = .next State.reset ∧
    ({ State.reset with ready := true } : State).ready = true ∧ State.reset.ready = false := by
  refine ⟨rfl, rfl, ?_, rfl, rfl, rfl⟩
  rw [State.finish_ready, stepTick_ready, if_pos]
  change outCap - 2 + 2 = outCap
  exact witness_StepWrapsAndRaisesReady.1

/-- The crossing of a playing voice. -/
theorem witness_OnlyACrossingOrResetEmptiesACache :
    exec .step (withVoice (inBlock 0x1000 0x1B000)) = .next (stepTick params (withVoice (inBlock 0x1000 0x1B000))).finish ∧
    ((withVoice (inBlock 0x1000 0x1B000)).voice 0).cacheValid = true ∧
    ((stepTick params (withVoice (inBlock 0x1000 0x1B000))).finish.voice 0).cacheValid = false := by
  refine ⟨rfl, rfl, ?_⟩
  rw [State.voice_finish, stepTick_voice]
  rfl

end Sys2Proof.Tests
end

/-! The number of a command word (R90) and the decoder's answer for the words of a RESET. -/

namespace Sys2Proof

open Sys2Proof.Claims

/-- The number with the three fields in their bit positions is the word of those fields (R90). -/
theorem word_eq_commandWord (op : BitVec 3) (a : PortAddr) (d : Byte) :
    word op.toNat a.toNat d.toNat = commandWord op a d := by
  apply BitVec.eq_of_toNat_eq
  have hlt : op.toNat * 2 ^ 40 + a.toNat * 2 ^ 8 + d.toNat < 2 ^ 43 := by
    rw [← commandWord_toNat]
    exact (commandWord op a d).isLt
  rw [word, commandWord_toNat, BitVec.toNat_ofNat, Nat.mod_eq_of_lt hlt]

/-- A RESET word decodes to RESET, whatever its address and its data (R90). -/
theorem decodeWord_reset (a : PortAddr) (d : Byte) : decodeWord (commandWord 4 a d) = .reset := by
  simp [decodeWord]

end Sys2Proof

/-! What RESET leaves in the core (R56, R290): the reset state, with the issued commands still pending. -/

namespace Sys2Proof.Machine

open Sys2Proof.Config Sys2Proof.Claims

/-- RESET completes in every state and leaves the reset state, the issued commands still pending (R290). -/
theorem exec_reset (s : State) : exec .reset s = .next { State.reset with pending := s.pending } := by
  rw [← resetCore_eq]
  rfl

/-- A voice of the reset state, with any commands pending, is the reset voice (R56). -/
theorem voice_reset_withPending (cs : List Command) (v : Fin voiceCount) :
    State.voice { State.reset with pending := cs } v = resetVoice :=
  calc State.voice { State.reset with pending := cs } v
    _ = State.reset.voice v := State.voice_congr rfl v
    _ = Voice.atReset := State.voice_resetWith params v
    _ = resetVoice := rfl

/-- With no byte listed, every address of voice memory reads as its initial contents (R51, R87). -/
theorem memoryByte_of_mem_eq_nil {s : State} (hmem : s.mem = []) {n : Nat} (hn : n < voiceMemBytes) :
    memoryByte s n = Config.memInit n := by
  have hread : memRead params [] n = Config.memInit (n % voiceMemBytes) := rfl
  rw [memoryByte, debugPort, hmem, hread, Nat.mod_eq_of_lt hn]

/-- Settles O41: the word decodes to RESET, and RESET leaves the reset state in every element but the pending commands. -/
theorem resetGivesEveryResetValue : Obligations.ResetGivesEveryResetValue := by
  intro a d
  have hword : decodeWord (word 4 a.toNat d.toNat) = .reset :=
    (congrArg decodeWord (word_eq_commandWord 4 a d)).trans (decodeWord_reset a d)
  refine ⟨hword, fun s => ⟨_, exec_reset s, voice_reset_withPending s.pending, ?globals, ?cursor, ?memory, ?output⟩⟩
  case globals => exact ⟨rfl, rfl, rfl, rfl, rfl, rfl, rfl, rfl, rfl, rfl, rfl, rfl, rfl, rfl, rfl, rfl⟩
  case cursor => rfl
  case memory => exact fun n hn => memoryByte_of_mem_eq_nil rfl hn
  case output => exact ⟨rfl, rfl, rfl⟩

end Sys2Proof.Machine

/-! The words of the reserved ops 5, 6 and 7: what they decode to, and their refusal (R95). -/

namespace Sys2Proof

open Sys2Proof.Claims

/-- A word with a reserved op decodes to the reserved command of that op, whatever its address and its data (R95). -/
theorem decodeWord_reserved {op : BitVec 3} (hop : 5 ≤ op.toNat) (a : PortAddr) (d : Byte) :
    decodeWord (commandWord op a d) = .reserved op := by
  rw [decodeWord, opField_commandWord]
  split
  case h_6 => rfl
  all_goals omega

/-- A reserved command is refused in every state, and the refusal names its op (R95; log entry 11). -/
theorem Machine.exec_reserved (op : BitVec 3) (s : Machine.State) :
    Machine.exec (.reserved op) s = .refused (.reservedCommand op) := rfl

/-- Settles O43: the word decodes to the reserved command of its op, and that command is refused in every state. -/
theorem reservedCommandsAreRefused : Obligations.ReservedCommandsAreRefused := by
  intro op hop a d
  have hword : decodeWord (word op.toNat a.toNat d.toNat) = .reserved op := by
    rw [word_eq_commandWord, decodeWord_reserved hop]
  exact ⟨hword, Machine.exec_reserved op⟩

end Sys2Proof

/-! The word of a READ or a WRITE at a numbered port address (R90, R92), for every address and for the bytes of a voice. -/

namespace Sys2Proof.Laws

open Sys2Proof.Claims

/-- The number of a word whose address field is the number n is the word of the address n (R90). -/
theorem word_eq_commandWord_ofNat (op : BitVec 3) {n : Nat} (hn : n < 2 ^ 32) (d : Byte) :
    word op.toNat n d.toNat = commandWord op (BitVec.ofNat 32 n) d := by
  rw [← word_eq_commandWord, BitVec.toNat_ofNat, Nat.mod_eq_of_lt hn]

/-- A READ word at port address n decodes to the READ of what n names (R92). -/
theorem readWord_of_decodePort {n : Nat} (hn : n < 2 ^ 32) {p : Port} (hport : decodePort (BitVec.ofNat 32 n) = p) :
    ReadWord n p.readInstr := fun d =>
  calc decodeWord (word 0 n d.toNat)
    _ = decodeWord (commandWord 0 (BitVec.ofNat 32 n) d) := congrArg decodeWord (word_eq_commandWord_ofNat 0 hn d)
    _ = p.readInstr := by rw [decodeWord_read, hport]

/-- The WRITE word of byte b at port address n decodes to the WRITE of b to what n names (R92). -/
theorem writeWord_of_decodePort {n : Nat} (hn : n < 2 ^ 32) {p : Port} (hport : decodePort (BitVec.ofNat 32 n) = p)
    (b : Byte) : WriteWord n b (p.writeInstr b) :=
  calc decodeWord (word 1 n b.toNat)
    _ = decodeWord (commandWord 1 (BitVec.ofNat 32 n) b) := congrArg decodeWord (word_eq_commandWord_ofNat 1 hn b)
    _ = p.writeInstr b := by rw [decodeWord_write, hport]

/-- Byte k of the register that starts `off` bytes into voice v's block is byte `off + k` of the block (R93). -/
theorem decodePort_voiceByte (v : Fin 24) (off k : Nat) (h : off + k < 16) :
    decodePort (BitVec.ofNat 32 (0x1C00 + 16 * v.val + off + k)) = voicePort v ⟨off + k, h⟩ := by
  rw [Nat.add_assoc]
  exact decodePort_voiceAddress v ⟨off + k, h⟩

/-! Each row of R92 for the voice registers. -/

theorem decodePort_volL (v : Fin 24) (k : Fin 2) :
    decodePort (BitVec.ofNat 32 (0x1C00 + 16 * v.val + k.val)) = .volL v k :=
  (decodePort_voiceAddress v ⟨k.val, by omega⟩).trans (voicePort_volL v k)

theorem decodePort_volR (v : Fin 24) (k : Fin 2) :
    decodePort (BitVec.ofNat 32 (0x1C00 + 16 * v.val + 2 + k.val)) = .volR v k :=
  (decodePort_voiceByte v 2 k.val (by omega)).trans (voicePort_volR v k)

theorem decodePort_rate (v : Fin 24) (k : Fin 2) :
    decodePort (BitVec.ofNat 32 (0x1C00 + 16 * v.val + 4 + k.val)) = .rate v k :=
  (decodePort_voiceByte v 4 k.val (by omega)).trans (voicePort_rate v k)

theorem decodePort_start (v : Fin 24) (k : Fin 2) :
    decodePort (BitVec.ofNat 32 (0x1C00 + 16 * v.val + 6 + k.val)) = .start v k :=
  (decodePort_voiceByte v 6 k.val (by omega)).trans (voicePort_start v k)

theorem decodePort_adsrCfg (v : Fin 24) (k : Fin 4) :
    decodePort (BitVec.ofNat 32 (0x1C00 + 16 * v.val + 8 + k.val)) = .adsrCfg v k :=
  (decodePort_voiceByte v 8 k.val (by omega)).trans (voicePort_adsrCfg v k)

theorem decodePort_adsrVol (v : Fin 24) (k : Fin 2) :
    decodePort (BitVec.ofNat 32 (0x1C00 + 16 * v.val + 12 + k.val)) = .adsrVol v k :=
  (decodePort_voiceByte v 12 k.val (by omega)).trans (voicePort_adsrVol v k)

theorem decodePort_repeatAddr (v : Fin 24) (k : Fin 2) :
    decodePort (BitVec.ofNat 32 (0x1C00 + 16 * v.val + 14 + k.val)) = .repeatAddr v k :=
  (decodePort_voiceByte v 14 k.val (by omega)).trans (voicePort_repeatAddr v k)

/-- The decoder's test for a mapped address is the address map of R70. -/
theorem mappedAddress_iff (a : PortAddr) : mappedAddress a = true ↔ InMap a.toNat := by
  simp only [mappedAddress, InMap, Bool.or_eq_true, Bool.and_eq_true, decide_eq_true_eq, or_assoc]

end Sys2Proof.Laws

/-! READ and WRITE of one byte of a register (R120, R121): what makes a register readable and writable byte by byte, said
once for each kind of register, then applied to every register of the map. -/

namespace Sys2Proof.Machine

open Sys2Proof.Config Sys2Proof.Claims Sys2Proof.Laws

/-- Bits [8k+7:8k] are what the model's byte read takes (R120). -/
theorem regReadByte_eq_byteOf {w : Nat} (r : BitVec w) (k : Nat) : regReadByte r k = byteOf r k :=
  BitVec.setWidth_ushiftRight_eq_extractLsb.symm

/-- The model's byte write replaces bits [8k+7:8k] and no other (R121). -/
theorem byteReplaced_regWriteByte {w : Nat} (r : BitVec w) (k : Nat) (b : Byte) :
    ByteReplaced r (regWriteByte r k b) k b := regWriteByte_getLsbD r k b

/-- A register is read byte by byte if each of its addresses names a port whose READ answers with that byte. -/
theorem readsRegister_of_exec {w n base : Nat} {port : Fin n → Port} {i : Fin n → Instr} {get : State → BitVec w}
    (hport : ∀ k : Fin n, decodePort (BitVec.ofNat 32 (base + k)) = port k)
    (hinstr : ∀ k, (port k).readInstr = i k)
    (hexec : ∀ k s, exec (i k) s = .next (s.answer (regReadByte (get s) k.val)))
    (hbase : base + n ≤ 2 ^ 32 := by omega) :
    ReadsRegister base i get := by
  intro k
  constructor
  case left => exact hinstr k ▸ readWord_of_decodePort (by omega) (hport k)
  case right =>
    intro s
    rw [Returns, hexec, regReadByte_eq_byteOf]
    rfl

/-- A global register is written byte by byte if each of its addresses names a port whose WRITE puts the register back with
that byte written. -/
theorem writesRegister_of_exec {w n base : Nat} {port : Fin n → Port} {i : Fin n → Byte → Instr}
    {get : State → BitVec w} {put : State → BitVec w → State}
    (hport : ∀ k : Fin n, decodePort (BitVec.ofNat 32 (base + k)) = port k)
    (hinstr : ∀ k b, (port k).writeInstr b = i k b)
    (hexec : ∀ k b s, exec (i k b) s = .next (put s (regWriteByte (get s) k.val b)).finish)
    (hbase : base + n ≤ 2 ^ 32 := by omega) :
    WritesRegister base i get put := by
  intro k b
  constructor
  case left => exact hinstr k b ▸ writeWord_of_decodePort (by omega) (hport k) b
  case right => exact fun s => ⟨_, byteReplaced_regWriteByte (get s) k.val b, hexec k b s⟩

/-- A voice register is written byte by byte if each of its addresses names a port whose WRITE changes that voice's record
only, by putting the register back with that byte written. -/
theorem writesVoiceRegister_of_exec {w n base : Nat} {v : Fin voiceCount} {port : Fin n → Port}
    {i : Fin n → Byte → Instr} {get : Voice → BitVec w} {put : Voice → BitVec w → Voice}
    (hport : ∀ k : Fin n, decodePort (BitVec.ofNat 32 (base + k)) = port k)
    (hinstr : ∀ k b, (port k).writeInstr b = i k b)
    (hexec : ∀ k b s, exec (i k b) s = .next (s.modifyVoice v fun x => put x (regWriteByte (get x) k.val b)).finish)
    (hbase : base + n ≤ 2 ^ 32 := by omega) :
    WritesVoiceRegister base v i get put := by
  intro k b
  constructor
  case left => exact hinstr k b ▸ writeWord_of_decodePort (by omega) (hport k) b
  case right => exact fun s => ⟨_, byteReplaced_regWriteByte (get (s.voice v)) k.val b, hexec k b s⟩

/-- Settles O9: each row of R92 for a voice register, and the answer of its READ. -/
theorem voiceRegisterReads : Obligations.VoiceRegisterReads := fun v =>
  have hv : v.val < 24 := v.isLt
  ⟨readsRegister_of_exec (decodePort_volL v) (fun _ => rfl) (fun _ _ => rfl),
   readsRegister_of_exec (decodePort_volR v) (fun _ => rfl) (fun _ _ => rfl),
   readsRegister_of_exec (decodePort_rate v) (fun _ => rfl) (fun _ _ => rfl),
   readsRegister_of_exec (decodePort_start v) (fun _ => rfl) (fun _ _ => rfl),
   readsRegister_of_exec (decodePort_adsrCfg v) (fun _ => rfl) (fun _ _ => rfl),
   readsRegister_of_exec (decodePort_adsrVol v) (fun _ => rfl) (fun _ _ => rfl),
   readsRegister_of_exec (decodePort_repeatAddr v) (fun _ => rfl) (fun _ _ => rfl)⟩

/-- Settles O10: each row of R92 for a global register, and the answer of its READ. The addresses of a key mask name two
kinds of port, which a READ does not tell apart. -/
theorem globalRegisterReads : Obligations.GlobalRegisterReads :=
  ⟨readsRegister_of_exec decodePort_mvolL (fun _ => rfl) (fun _ _ => rfl),
   readsRegister_of_exec decodePort_mvolR (fun _ => rfl) (fun _ _ => rfl),
   readsRegister_of_exec decodePort_rvolL (fun _ => rfl) (fun _ _ => rfl),
   readsRegister_of_exec decodePort_rvolR (fun _ => rfl) (fun _ _ => rfl),
   readsRegister_of_exec decodePort_chrvb (fun _ => rfl) (fun _ _ => rfl),
   readsRegister_of_exec decodePort_cdvolL (fun _ => rfl) (fun _ _ => rfl),
   readsRegister_of_exec decodePort_cdvolR (fun _ => rfl) (fun _ _ => rfl),
   readsRegister_of_exec decodePort_irqa (fun _ => rfl) (fun _ _ => rfl),
   readsRegister_of_exec decodePort_stga (fun _ => rfl) (fun _ _ => rfl),
   readsRegister_of_exec decodePort_ctrl (fun _ => rfl) (fun _ _ => rfl),
   readsRegister_of_exec decodePort_xfer (fun _ => rfl) (fun _ _ => rfl),
   readsRegister_of_exec (fun _ => rfl) decodePort_kon_read (fun _ _ => rfl),
   readsRegister_of_exec (fun _ => rfl) decodePort_koff_read (fun _ _ => rfl)⟩

/-- Settles O11: each row of R92 for a voice register but the start address, and the record its WRITE puts back. -/
theorem voiceRegisterWrites : Obligations.VoiceRegisterWrites := fun v =>
  have hv : v.val < 24 := v.isLt
  ⟨writesVoiceRegister_of_exec (decodePort_volL v) (fun _ _ => rfl) (fun _ _ _ => rfl),
   writesVoiceRegister_of_exec (decodePort_volR v) (fun _ _ => rfl) (fun _ _ _ => rfl),
   writesVoiceRegister_of_exec (decodePort_rate v) (fun _ _ => rfl) (fun _ _ _ => rfl),
   writesVoiceRegister_of_exec (decodePort_adsrCfg v) (fun _ _ => rfl) (fun _ _ _ => rfl),
   writesVoiceRegister_of_exec (decodePort_adsrVol v) (fun _ _ => rfl) (fun _ _ _ => rfl),
   writesVoiceRegister_of_exec (decodePort_repeatAddr v) (fun _ _ => rfl) (fun _ _ _ => rfl)⟩

/-- Settles O12: the record a WRITE of the start address puts back has the position 0, whichever byte it writes. -/
theorem startWriteResetsPosition : Obligations.StartWriteResetsPosition := fun v =>
  have hv : v.val < 24 := v.isLt
  writesVoiceRegister_of_exec (decodePort_start v) (fun _ _ => rfl) (fun _ _ _ => rfl)

/-- Settles O13: each row of R92 for a global register without a side effect, and the state its WRITE puts back. -/
theorem globalRegisterWrites : Obligations.GlobalRegisterWrites :=
  ⟨writesRegister_of_exec decodePort_mvolL (fun _ _ => rfl) (fun _ _ _ => rfl),
   writesRegister_of_exec decodePort_mvolR (fun _ _ => rfl) (fun _ _ _ => rfl),
   writesRegister_of_exec decodePort_rvolL (fun _ _ => rfl) (fun _ _ _ => rfl),
   writesRegister_of_exec decodePort_rvolR (fun _ _ => rfl) (fun _ _ _ => rfl),
   writesRegister_of_exec decodePort_chrvb (fun _ _ => rfl) (fun _ _ _ => rfl),
   writesRegister_of_exec decodePort_cdvolL (fun _ _ => rfl) (fun _ _ _ => rfl),
   writesRegister_of_exec decodePort_cdvolR (fun _ _ => rfl) (fun _ _ _ => rfl),
   writesRegister_of_exec decodePort_irqa (fun _ _ => rfl) (fun _ _ _ => rfl),
   writesRegister_of_exec decodePort_ctrl (fun _ _ => rfl) (fun _ _ _ => rfl),
   writesRegister_of_exec decodePort_xfer (fun _ _ => rfl) (fun _ _ _ => rfl),
   writesRegister_of_exec decodePort_stat (fun _ _ => rfl) (fun _ _ _ => rfl)⟩

/-- Settles O14: outside the map the decoder falls to row 25 of R92, whose READ answers 0 and whose WRITE does nothing. -/
theorem unmappedAddressesReadZeroAndIgnoreWrites : Obligations.UnmappedAddressesReadZeroAndIgnoreWrites := by
  intro a hmap
  have hunmapped : mappedAddress a = false := by
    rwa [← mappedAddress_iff, Bool.not_eq_true] at hmap
  have hport : decodePort (BitVec.ofNat 32 a.toNat) = .unmapped a := by
    rw [BitVec.ofNat_toNat, BitVec.setWidth_eq, decodePort_unmapped a hunmapped]
  have hread : ReadWord a.toNat (.rdUnmapped a) := readWord_of_decodePort a.isLt hport
  have hwrite (b : Byte) : WriteWord a.toNat b (.wrUnmapped a b) := writeWord_of_decodePort a.isLt hport b
  exact ⟨hread, fun _ => rfl, fun b => ⟨hwrite b, fun _ => rfl⟩⟩

end Sys2Proof.Machine

/-! WRITE of the key masks (41_key_on_off.md): the low bytes only store, and the last byte commits. A commit is said once
for each mask: the registers it leaves, and what it leaves of every voice. -/

namespace Sys2Proof.Machine

open Sys2Proof.Config Sys2Proof.Claims Sys2Proof.Laws

/-- An operation that changes only voices, and then returns no byte, leaves every register it began with. -/
theorem State.SameButVoices.finish_eq {s t : State} (h : s.SameButVoices t) :
    t.finish = { s with voices := t.voices, rdata := none } := by
  unfold State.SameButVoices at h
  rw [h]
  rfl

/-- The model's key-on of a voice sets what R170 sets, and nothing else. -/
theorem Voice.keyOn_eq_keyedOn (x : Voice) : x.keyOn = keyedOn x := rfl

/-- The model's key-off of a voice makes it Idle, and changes nothing else (R171). -/
theorem Voice.keyOff_eq (x : Voice) : x.keyOff = { x with playing := false } := rfl

/-- WR.KON.COMMIT completes in every state: it stores byte 3 and commits the mask it then finds (R163). -/
theorem exec_wrKonCommit (b : Byte) (s : State) :
    exec (.wrKonCommit b) s = .next (commitKeyOn { s with kon := regWriteByte s.kon 3 b }).finish := rfl

/-- WR.KOFF.COMMIT completes in every state: it stores byte 3 and commits the mask it then finds (R166). -/
theorem exec_wrKoffCommit (b : Byte) (s : State) :
    exec (.wrKoffCommit b) s = .next (commitKeyOff { s with koff := regWriteByte s.koff 3 b }).finish := rfl

/-- A commit of the key-on mask r keys on exactly the voices of r, whatever they did before (R163, R170). -/
theorem commitKeyOn_finish_voice (s : State) (r : Reg32) (v : Fin voiceCount) :
    (commitKeyOn { s with kon := r }).finish.voice v = if r.getLsbD v then keyedOn (s.voice v) else s.voice v := by
  rw [State.voice_finish, commitKeyOn_voice, Voice.keyOn_eq_keyedOn]
  rfl

/-- A commit of the key-off mask r makes exactly the voices of r Idle (R166, R171). -/
theorem commitKeyOff_finish_voice (s : State) (r : Reg32) (v : Fin voiceCount) :
    (commitKeyOff { s with koff := r }).finish.voice v =
      if r.getLsbD v then { s.voice v with playing := false } else s.voice v := by
  rw [State.voice_finish, commitKeyOff_voice, Voice.keyOff_eq]
  rfl

/-- Settles O16: the rows of R92 for the low bytes of each mask, and the state their WRITE puts back, voices included. -/
theorem keyMaskLowBytesOnlyStore : Obligations.KeyMaskLowBytesOnlyStore :=
  ⟨writesRegister_of_exec decodePort_kon (fun _ _ => rfl) (fun _ _ _ => rfl),
   writesRegister_of_exec decodePort_koff (fun _ _ => rfl) (fun _ _ _ => rfl)⟩

/-- Settles O17: the mask with byte 3 written is committed, and the commit changes nothing but the voices it selects. -/
theorem keyOnCommitStartsTheSelectedVoices : Obligations.KeyOnCommitStartsTheSelectedVoices := by
  intro b
  have hword : WriteWord 0x1D8B b (.wrKonCommit b) := writeWord_of_decodePort (by decide) decodePort_konHigh b
  refine ⟨hword, fun s => ⟨regWriteByte s.kon 3 b, _, byteReplaced_regWriteByte s.kon 3 b, exec_wrKonCommit b s,
    ?frame, ?voices⟩⟩
  case frame => exact (commitKeyOn_sameButVoices _).finish_eq
  case voices => exact commitKeyOn_finish_voice s _

/-- Settles O18: the mask with byte 3 written is committed, and the commit changes nothing but the voices it selects. -/
theorem keyOffCommitStopsTheSelectedVoices : Obligations.KeyOffCommitStopsTheSelectedVoices := by
  intro b
  have hword : WriteWord 0x1D8F b (.wrKoffCommit b) := writeWord_of_decodePort (by decide) decodePort_koffHigh b
  refine ⟨hword, fun s => ⟨regWriteByte s.koff 3 b, _, byteReplaced_regWriteByte s.koff 3 b, exec_wrKoffCommit b s,
    ?frame, ?voices⟩⟩
  case frame => exact (commitKeyOff_sameButVoices _).finish_eq
  case voices => exact commitKeyOff_finish_voice s _

end Sys2Proof.Machine

/-! The staging path and the status word (42_staging_status.md): where the cursor stands after a reload and a store, what
a read of memory finds after a store, and the bits of the mirrored status word. -/

namespace Sys2Proof.Machine

open Sys2Proof.Config Sys2Proof.Claims Sys2Proof.Laws

/-- The cursor has as many bits as voice memory has addresses, so a wrapped address is kept in full (R50). -/
theorem cursor_toNat_of_wrapped (n : Nat) : (BitVec.ofNat 19 (n % voiceMemBytes)).toNat = n % voiceMemBytes := by
  rw [BitVec.toNat_ofNat]
  exact Nat.mod_mod n voiceMemBytes

/-- A reload puts the cursor at the byte address of the staging address (R71, R184). -/
theorem reloadCursor_scur_toNat (s : State) : (reloadCursor s).scur.toNat = 8 * s.stga.toNat % voiceMemBytes := by
  rw [reloadCursor_scur, cursor_toNat_of_wrapped, unitAddress]

/-- A staged byte moves the cursor on by one, from the last address to 0 (R186). -/
theorem stageByte_scur_toNat (P : Params) (b : Byte) (s : State) :
    (stageByte P b s).scur.toNat = (s.scur.toNat + 1) % voiceMemBytes := by
  rw [stageByte_scur, cursor_toNat_of_wrapped]

/-- A staged byte is read back at the address the cursor had, and at no other (R186). -/
theorem memRead_stageByte (P : Params) (b : Byte) (s : State) (hwf : Memory.wf P.memInit s.mem = true) (a : Nat) :
    memRead P (stageByte P b s).mem a = if a % voiceMemBytes = s.scur.toNat then b else memRead P s.mem a := by
  have hcursor : s.scur.toNat % voiceMemBytes = s.scur.toNat := Nat.mod_eq_of_lt s.scur.isLt
  rw [stageByte_mem, memRead_memWrite P s.mem _ a b hwf, hcursor]

/-- The machine's mirror mask selects bits [5:0] of the word (R194). -/
theorem mirrorMask_getLsbD (j : Nat) : params.mirrorMask.getLsbD j = decide (j < 6) := by
  have hmask : (0x003F : Nat) = 2 ^ 6 - 1 := rfl
  have hbit : params.mirrorMask.getLsbD j = (decide (j < 16) && Nat.testBit 0x003F j) := BitVec.getLsbD_ofNat 16 0x003F j
  rw [hbit, hmask, Nat.testBit_two_pow_sub_one, ← Bool.decide_and]
  exact decide_eq_decide.mpr (by omega)

/-- The mirrored status word has bits [5:0] of the control word and its own bits [15:6] (R194). -/
theorem mirrored_getLsbD (stat ctrl : Reg16) {j : Nat} (hj : j < 16) :
    (mirrored params stat ctrl).getLsbD j = if j < 6 then ctrl.getLsbD j else stat.getLsbD j := by
  rw [mirrored, BitVec.getLsbD_or, BitVec.getLsbD_and, BitVec.getLsbD_and, BitVec.getLsbD_not, mirrorMask_getLsbD]
  by_cases hlow : j < 6
  · simp [hlow]
  · simp [hlow, hj]

/-- RD.STAT completes in every state: it refreshes the status word, and returns a byte of the word it then finds (R194). -/
theorem exec_rdStat (k : Fin 2) (s : State) :
    exec (.rdStat k) s =
      .next { s with stat := mirrored params s.stat s.ctrl, rdata := some (byteOf (mirrored params s.stat s.ctrl) k) } := by
  rw [← regReadByte_eq_byteOf]
  rfl

/-- WR.FIFO completes in every state: it stages its byte, whichever address it was written to (R186). -/
theorem exec_wrFifo (k : Fin 2) (b : Byte) (s : State) : exec (.wrFifo k b) s = .next (stageByte params b s).finish := rfl

/-- The staging address is written byte by byte, and each byte written reloads the cursor (R184). -/
theorem writesRegister_stga :
    WritesRegister 0x1DA6 .wrStga (·.stga) (fun s r => reloadCursor { s with stga := r }) :=
  writesRegister_of_exec decodePort_stga (fun _ _ => rfl) (fun _ _ _ => rfl)

/-- Settles O20: the register put back by either byte is the one the reload takes the cursor from. -/
theorem stagingAddressWriteReloadsCursor : Obligations.StagingAddressWriteReloadsCursor := by
  intro k b
  obtain ⟨hword, hwrite⟩ := writesRegister_stga k b
  refine ⟨hword, fun s => ?_⟩
  obtain ⟨r, hbyte, hexec⟩ := hwrite s
  exact ⟨r, _, hbyte, reloadCursor_scur_toNat { s with stga := r }, hexec⟩

/-- Settles O21: row 19 of R92, and the answer of its READ, which asks nothing of the state. -/
theorem fifoReadReturnsZero : Obligations.FifoReadReturnsZero := fun k =>
  ⟨readWord_of_decodePort (by omega) (decodePort_fifo k), fun _ => rfl⟩

/-- Settles O22: the memory and the cursor a staged byte leaves, the premise of a canonical memory being that of a read after
a write. -/
theorem fifoWriteStoresAtTheCursor : Obligations.FifoWriteStoresAtTheCursor := by
  intro k b
  have hword : WriteWord (0x1DA8 + k) b (.wrFifo k b) := writeWord_of_decodePort (by omega) (decodePort_fifo k) b
  exact ⟨hword, fun s => ⟨_, _, exec_wrFifo k b s, stageByte_scur_toNat params b s, memRead_stageByte params b s⟩⟩

/-- Settles O23: the mirrored word, bit by bit, is the one both the state and the byte returned hold. -/
theorem statusReadMirrorsControl : Obligations.StatusReadMirrorsControl := by
  intro k
  have hword : ReadWord (0x1DAE + k) (.rdStat k) := readWord_of_decodePort (by omega) (decodePort_stat k)
  exact ⟨hword, fun s => ⟨_, fun _ hj => mirrored_getLsbD s.stat s.ctrl hj, exec_rdStat k s⟩⟩

end Sys2Proof.Machine

/-! STEP as one voice sees it (43_voice_step.md): its own tick, from the memory and the record it had before. The tick's
three moves (R206, R207, R208) are said once each, and the refill in the words of the statements. -/

namespace Sys2Proof.Machine

open Sys2Proof.Config Sys2Proof.Claims

/-- STEP completes in every state: it ticks and mixes, and returns no byte (R200). -/
theorem exec_step (s : State) : exec .step s = .next (stepTick params s).finish := rfl

/-- STEP completes, and leaves of each voice what its own tick makes of it (R200, R201). -/
theorem exec_step_voice (s : State) (v : Fin voiceCount) :
    ∃ t, exec .step s = .next t ∧ t.voice v = (voiceTick params s.mem (s.voice v)).2 :=
  ⟨_, exec_step s, (State.voice_finish _ v).trans (stepTick_voice params s v)⟩

/-! ## The Idle voice -/

/-- The tick of an Idle voice keeps a valid cache unless the parameter clears it, and keeps the rest of the voice (R202). -/
theorem Voice.idleTick_eq (P : Params) (x : Voice) :
    x.idleTick P = { x with cacheValid := x.cacheValid && !P.idleTickClearsCache } := by
  cases hclear : P.idleTickClearsCache with
  | false => simp [Voice.idleTick, hclear]
  | true => simp [Voice.idleTick, hclear]

/-- Where the parameter clears no cache, the tick of an Idle voice is the identity (R202). -/
theorem Voice.idleTick_of_keepsCache (P : Params) (x : Voice) (hkeep : P.idleTickClearsCache = false) :
    x.idleTick P = x :=
  if_neg (by simp [hkeep])

/-- Settles O26: the Idle branch of the tick, with the parameter free and then at its decided value. -/
theorem stepLeavesIdleVoicesAlone : Obligations.StepLeavesIdleVoicesAlone := by
  refine ⟨fun P m x hidle => ?tick, rfl, fun s v hidle => ?step⟩
  case tick => rw [voiceTick_idle P m x hidle, Voice.idleTick_eq, Emission.silent]
  case step =>
    obtain ⟨t, hstep, hvoice⟩ := exec_step_voice s v
    refine ⟨t, hstep, ?_⟩
    rw [hvoice, voiceTick_idle params s.mem _ hidle, Voice.idleTick_of_keepsCache params _ rfl]

/-! ## The refill of a playing voice -/

/-- Voice v as the refill of the next STEP leaves it, were it playing: with samples in the cache, still at its old
position (R203). -/
def refilledVoice (s : State) (v : Fin voiceCount) : Voice :=
  { s.voice v with cache := playedCache s v, hist := playedHist s v, cacheValid := true }

/-- The refill of the tick keeps a valid cache, and fills an empty one with the current block decoded (R203). -/
theorem Voice.refill_eq_refilledVoice (s : State) (v : Fin voiceCount) :
    (s.voice v).refill params s.mem = refilledVoice s v := by
  unfold refilledVoice playedCache playedHist
  cases hvalid : (s.voice v).cacheValid with
  | true => simp [Voice.refill_valid params s.mem _ hvalid, ← hvalid]
  | false =>
    rw [Voice.refill_empty params s.mem _ hvalid]
    rfl

/-- A refill leaves the position and the rate, and with them the advanced position (R205). -/
theorem refilledVoice_advanced (s : State) (v : Fin voiceCount) : (refilledVoice s v).advanced = nextPosition s v := rfl

/-- A refill leaves the position, and with it the sample index (R204). -/
theorem refilledVoice_index (s : State) (v : Fin voiceCount) : (refilledVoice s v).index = sampleIndex s v := rfl

/-- STEP of a playing voice: the move of the refilled voice (R203 to R210). -/
theorem exec_step_voice_playing (s : State) (v : Fin voiceCount) (hplay : (s.voice v).playing = true) :
    ∃ t, exec .step s = .next t ∧ t.voice v = (refilledVoice s v).move params s.mem := by
  obtain ⟨t, hstep, hvoice⟩ := exec_step_voice s v
  refine ⟨t, hstep, ?_⟩
  rw [hvoice, voiceTick_playing params s.mem _ hplay, Voice.refill_eq_refilledVoice]

/-! ## The three moves -/

/-- With the sample index unchanged a voice only takes its advanced position (R206). -/
theorem Voice.move_of_sameIndex (P : Params) (m : Memory) (x : Voice) (hindex : x.advanced / 4096 = x.index) :
    x.move P m = x.moved :=
  if_pos hindex

/-- A position past the block's last sample crosses into the next block (R207). -/
theorem Voice.move_of_crossing (P : Params) (m : Memory) (x : Voice) (hindex : x.advanced / 4096 ≠ x.index)
    (hout : subPosLimit ≤ x.advanced) : x.move P m = x.cross :=
  (if_neg hindex).trans (if_pos hout)

/-- At a new sample of the same block both flag checks follow, on the block's flag byte (R208). -/
theorem Voice.move_of_newSample (P : Params) (m : Memory) (x : Voice) (hindex : x.advanced / 4096 ≠ x.index)
    (hin : x.advanced < subPosLimit) :
    x.move P m = (x.moved.applyLoopStart (flagByte P m x.cur)).applyLoopEnd (flagByte P m x.cur) :=
  (if_neg hindex).trans (if_neg (Nat.not_le.mpr hin))

/-- Settles O28: the refilled voice at its advanced position. -/
theorem stepWithinASampleOnlyMoves : Obligations.StepWithinASampleOnlyMoves := by
  intro s v hplay hindex
  rw [← refilledVoice_advanced, ← refilledVoice_index] at hindex
  obtain ⟨t, hstep, hvoice⟩ := exec_step_voice_playing s v hplay
  refine ⟨t, hstep, ?_⟩
  rw [hvoice, Voice.move_of_sameIndex _ _ _ hindex]
  rfl

/-- The crossing's step of two address units, counted modulo 2^16 (R207). -/
theorem add_blockStride (u : Reg16) : u + BitVec.ofNat 16 blockStride = BitVec.ofNat 16 (u.toNat + 2) := by
  rw [BitVec.ofNat_add, BitVec.ofNat_toNat, BitVec.setWidth_eq]

/-- Settles O29: the refilled voice after a crossing. -/
theorem stepCrossesIntoTheNextBlock : Obligations.StepCrossesIntoTheNextBlock := by
  intro s v hplay hindex hout
  rw [← refilledVoice_advanced] at hindex hout
  rw [← refilledVoice_index] at hindex
  obtain ⟨t, hstep, hvoice⟩ := exec_step_voice_playing s v hplay
  refine ⟨t, hstep, ?_⟩
  rw [hvoice, Voice.move_of_crossing _ _ _ hindex hout, ← add_blockStride]
  rfl

/-- The flag byte a playing voice's tick reads is the one memory holds at its current block before the STEP (R208). -/
theorem flagByte_refilledVoice (s : State) (v : Fin voiceCount) :
    flagByte params s.mem (refilledVoice s v).cur = flagsOf s v := rfl

/-- The address after both flag checks: loop end leaves the current block only where loop start has not just made it the
repeat point (R209, R210). -/
theorem loopEnd_address (f : Byte) (cur rep : Reg16) :
    (if loopEnd f then (if loopStart f then cur else rep) else cur) =
      if f.getLsbD 0 ∧ ¬ f.getLsbD 2 then rep else cur := by
  unfold loopEnd loopStart
  cases f.getLsbD 0 with
  | false => simp
  | true => cases f.getLsbD 2 with
    | false => simp
    | true => simp

/-- A voice plays on after the flag checks unless loop end is set (R210). -/
theorem loopEnd_playing (f : Byte) : (if loopEnd f then false else true) = !f.getLsbD 0 := by
  unfold loopEnd
  cases f.getLsbD 0 with
  | false => rfl
  | true => rfl

/-- Settles O30: the refilled voice at its advanced position, after both flag checks. -/
theorem stepObeysTheLoopFlags : Obligations.StepObeysTheLoopFlags := by
  intro s v hplay hindex hin
  rw [← refilledVoice_advanced] at hindex hin
  rw [← refilledVoice_index] at hindex
  obtain ⟨t, hstep, hvoice⟩ := exec_step_voice_playing s v hplay
  have hplaying : (refilledVoice s v).moved.playing = true := hplay
  refine ⟨t, hstep, ?_⟩
  rw [hvoice, Voice.move_of_newSample _ _ _ hindex hin, flagByte_refilledVoice, Voice.applyFlags, loopEnd_address,
    hplaying, loopEnd_playing]
  rfl

end Sys2Proof.Machine

/-! ACK (R253): the word it is decoded from, and the one flag it clears. -/

namespace Sys2Proof

open Sys2Proof.Claims

/-- An ACK word decodes to ACK, whatever its address and its data (R90). -/
theorem decodeWord_ack (a : PortAddr) (d : Byte) : decodeWord (commandWord 3 a d) = .ack := by
  simp [decodeWord]

/-- ACK completes in every state: it clears the ready flag, and returns no byte (R253). -/
theorem Machine.exec_ack (s : Machine.State) :
    Machine.exec .ack s = .next { s with ready := false, rdata := none } := rfl

/-- Settles O40: the word decodes to ACK, and ACK writes the ready flag and the answer only. -/
theorem ackClearsReadyOnly : Obligations.AckClearsReadyOnly := by
  intro a d
  have hword : decodeWord (word 3 a.toNat d.toNat) = .ack :=
    (congrArg decodeWord (word_eq_commandWord 3 a d)).trans (decodeWord_ack a d)
  exact ⟨hword, Machine.exec_ack⟩

end Sys2Proof

/-! The frame a STEP appends (44_mixer_output.md). What a voice's tick hands the mixer is the emission of the statements,
a tick keeps the volumes, and so each accumulator is the statements' sum; its bound and the range of the output values follow
from the widths of samples and gains. -/

namespace Sys2Proof.Machine

open Sys2Proof.Config Sys2Proof.Claims

/-! ## The output buffer, the write index and the ready flag -/

/-- Settles O37: the wrap test of the record STEP leaves, and the two slots its frame is written to. -/
theorem stepWrapsAndRaisesReady : Obligations.StepWrapsAndRaisesReady := by
  intro s
  refine ⟨_, exec_step s, fun hfull => ?wraps, fun hroom => ?advances, fun i hleft hright => ?slots⟩
  case wraps =>
    rw [State.finish_wp, State.finish_ready, stepTick_wp, stepTick_ready]
    exact ⟨if_pos hfull, if_pos hfull⟩
  case advances =>
    rw [State.finish_wp, State.finish_ready, stepTick_wp, stepTick_ready]
    exact ⟨if_neg hroom, if_neg hroom⟩
  case slots =>
    rw [State.finish_out, stepTick_out, List.getElem?_set_ne hright.symm, List.getElem?_set_ne hleft.symm]

/-! ## The volumes during a tick -/

@[simp] theorem voiceTick_volL (P : Params) (m : Memory) (x : Voice) : (voiceTick P m x).2.volL = x.volL := by
  rw [voiceTick_hostRegisters]

@[simp] theorem voiceTick_volR (P : Params) (m : Memory) (x : Voice) : (voiceTick P m x).2.volR = x.volR := by
  rw [voiceTick_hostRegisters]

@[simp] theorem tickVoices_mvolL (P : Params) (s : State) : (tickVoices P s).2.mvolL = s.mvolL := by
  rw [tickVoices_sameButVoices P s]

@[simp] theorem tickVoices_mvolR (P : Params) (s : State) : (tickVoices P s).2.mvolR = s.mvolR := by
  rw [tickVoices_sameButVoices P s]

/-! ## What a voice adds to the mix -/

/-- At a position in its block a refilled voice emits the sample the statements name (R204). -/
theorem refilledVoice_emitted (s : State) (v : Fin voiceCount) (hpos : (s.voice v).subPos.toNat < subPosLimit) :
    (refilledVoice s v).emitted = (playedCache s v).toList.getD (sampleIndex s v) 0 := by
  have hindex : sampleIndex s v < blockSamples := Nat.div_lt_of_lt_mul hpos
  have hemitted : (refilledVoice s v).emitted = (playedCache s v)[sampleIndex s v] := dif_pos hindex
  rw [hemitted, List.getD_eq_getElem _ _ (by simpa using hindex), Vector.getElem_toList]

/-- The machine's gain of a volume register is its signed value (R241). -/
theorem params_volumeGain (vol : Reg16) : params.volumeGain vol = vol.toInt := rfl

/-- A voice that emitted adds its sample times its gain (R242). -/
theorem contribution_active (P : Params) (e : Sample) (vol : Reg16) :
    contribution P ⟨true, e⟩ vol = e.toInt * P.volumeGain vol := rfl

/-- A voice adds its emission times its gain, and nothing while it is Idle (R202, R242). -/
theorem contribution_voiceTick (s : State) (v : Fin voiceCount) (hpos : (s.voice v).subPos.toNat < subPosLimit)
    (vol : Reg16) :
    contribution params (voiceTick params s.mem (s.voice v)).1 vol = emission s v * vol.toInt := by
  unfold emission
  cases hplay : (s.voice v).playing with
  | false => rw [voiceTick_idle params s.mem _ hplay, contribution_silent, if_neg Bool.false_ne_true, zero_mul]
  | true =>
    rw [voiceTick_playing params s.mem _ hplay, Voice.refill_eq_refilledVoice, refilledVoice_emitted s v hpos,
      contribution_active, params_volumeGain, if_pos rfl]

/-! ## The accumulators -/

/-- An accumulator, over a volume register that a tick leaves alone, is the sum of emission times volume as they are before
the STEP (R201, R242). -/
theorem sum_contributions (s : State) (hpos : PositionsInBlock s) (vol : Voice → Reg16)
    (hvol : ∀ x, vol (voiceTick params s.mem x).2 = vol x) :
    (voiceOrder.map fun v =>
        contribution params ((tickVoices params s).1.get v) (vol ((tickVoices params s).2.voice v))).sum =
      ∑ v : Fin voiceCount, emission s v * (vol (s.voice v)).toInt := by
  rw [Fin.sum_univ_def, voiceOrder]
  refine congrArg List.sum (List.map_congr_left fun v _ => ?_)
  rw [tickVoices_emission, tickVoices_voice, hvol, contribution_voiceTick s v (hpos v)]

/-- The left accumulator of a STEP (R242). -/
theorem accLeft_tickVoices (s : State) (hpos : PositionsInBlock s) :
    accLeft params (tickVoices params s).1 (tickVoices params s).2 = sumLeft s :=
  sum_contributions s hpos (·.volL) (voiceTick_volL params s.mem)

/-- The right accumulator of a STEP (R242). -/
theorem accRight_tickVoices (s : State) (hpos : PositionsInBlock s) :
    accRight params (tickVoices params s).1 (tickVoices params s).2 = sumRight s :=
  sum_contributions s hpos (·.volR) (voiceTick_volR params s.mem)

/-- The model's clamp and truncation of a scaled accumulator are the output value of the statements (R243, R244). -/
theorem quantise_mul (acc gain : Int) : quantise (acc * gain) = outputValue acc gain := rfl

/-- The left value of a STEP's frame (R243, R244). -/
theorem quantise_mixLeft_tickVoices (s : State) (hpos : PositionsInBlock s) :
    quantise (mixLeft params (tickVoices params s).1 (tickVoices params s).2) =
      outputValue (sumLeft s) s.mvolL.toInt := by
  rw [mixLeft, quantise_mul, accLeft_tickVoices s hpos, tickVoices_mvolL, params_volumeGain]

/-- The right value of a STEP's frame (R243, R244). -/
theorem quantise_mixRight_tickVoices (s : State) (hpos : PositionsInBlock s) :
    quantise (mixRight params (tickVoices params s).1 (tickVoices params s).2) =
      outputValue (sumRight s) s.mvolR.toInt := by
  rw [mixRight, quantise_mul, accRight_tickVoices s hpos, tickVoices_mvolR, params_volumeGain]

/-! ## The bounds -/

/-- A 16-bit two's-complement word is at most 2^15 in magnitude. -/
theorem abs_toInt_le (x : BitVec 16) : |x.toInt| ≤ 2 ^ 15 :=
  abs_le.mpr ⟨BitVec.le_toInt x, (BitVec.toInt_lt (x := x)).le⟩

/-- A voice's emission is a sample or 0, so at most 2^15 in magnitude (R34, R242). -/
theorem abs_emission_le (s : State) (v : Fin voiceCount) : |emission s v| ≤ 2 ^ 15 := by
  unfold emission
  split
  · exact abs_toInt_le _
  · decide

/-- A sum of 24 emissions times volumes is at most 24 * 2^30 in magnitude, whatever the volumes (R242). -/
theorem abs_sum_emission_mul_le (s : State) (vol : Fin voiceCount → Reg16) :
    |∑ v : Fin voiceCount, emission s v * (vol v).toInt| ≤ 24 * 2 ^ 30 := by
  have hterm (v : Fin voiceCount) : |emission s v * (vol v).toInt| ≤ 2 ^ 30 :=
    calc |emission s v * (vol v).toInt|
      _ = |emission s v| * |(vol v).toInt| := abs_mul _ _
      _ ≤ 2 ^ 15 * 2 ^ 15 := mul_le_mul (abs_emission_le s v) (abs_toInt_le _) (abs_nonneg _) (by decide)
      _ = 2 ^ 30 := by norm_num
  calc |∑ v : Fin voiceCount, emission s v * (vol v).toInt|
    _ ≤ ∑ v : Fin voiceCount, |emission s v * (vol v).toInt| := Finset.abs_sum_le_sum_abs _ _
    _ ≤ ∑ _v : Fin voiceCount, 2 ^ 30 := Finset.sum_le_sum fun v _ => hterm v
    _ = 24 * 2 ^ 30 := by simp

/-- The clamp keeps an output value within -32767 to 32767: -32768 is never produced (R244). -/
theorem outputValue_bounds (acc gain : Int) : -32767 ≤ outputValue acc gain ∧ outputValue acc gain ≤ 32767 := by
  have hlow : -(2 ^ 45) ≤ min (max (acc * gain) (-(2 ^ 45))) (2 ^ 45) := le_min (le_max_right _ _) (by decide)
  have hhigh : min (max (acc * gain) (-(2 ^ 45))) (2 ^ 45) ≤ 2 ^ 45 := min_le_right _ _
  constructor
  · calc (-32767 : Int)
      _ = Int.tdiv (-(2 ^ 45) * 0x7FFF) (2 ^ 45) := by decide
      _ ≤ outputValue acc gain := Int.tdiv_le_tdiv (by decide) (Int.mul_le_mul_of_nonneg_right hlow (by decide))
  · calc outputValue acc gain
      _ ≤ Int.tdiv (2 ^ 45 * 0x7FFF) (2 ^ 45) :=
        Int.tdiv_le_tdiv (by decide) (Int.mul_le_mul_of_nonneg_right hhigh (by decide))
      _ = 32767 := by decide

/-! ## The frame -/

/-- Settles O35: the record STEP leaves with both values of its frame in the statements' terms, the bound of each sum, and
the range of an output value. -/
theorem stepMixesOneFrame : Obligations.StepMixesOneFrame := by
  refine ⟨fun s hpos _ _ => ⟨_, exec_step s, ?frame, ?index⟩, fun s => ⟨?left, ?right⟩, outputValue_bounds⟩
  case frame =>
    rw [State.finish_out, stepTick_out, quantise_mixLeft_tickVoices s hpos, quantise_mixRight_tickVoices s hpos]
  case index => exact (State.finish_wp _).trans (stepTick_wp params s)
  case left => exact abs_sum_emission_mul_le s fun v => (s.voice v).volL
  case right => exact abs_sum_emission_mul_le s fun v => (s.voice v).volR

end Sys2Proof.Machine

/-! Decoding and encoding are inverse to each other (30_encoding.md): said once for the ports of R92, then for the words of
each op. -/

namespace Sys2Proof.Laws

open Sys2Proof.Claims

/-- A command word is a READ, a WRITE, a STEP, an ACK, a RESET or a reserved command, by its op (R90, R95). -/
theorem command_cases {motive : Command → Prop} (read : ∀ a d, motive (commandWord 0 a d))
    (write : ∀ a d, motive (commandWord 1 a d)) (step : ∀ a d, motive (commandWord 2 a d))
    (ack : ∀ a d, motive (commandWord 3 a d)) (reset : ∀ a d, motive (commandWord 4 a d))
    (reserved : ∀ op a d, 5 ≤ op.toNat → motive (commandWord op a d)) (w : Command) : motive w := by
  have hops : ∀ op : BitVec 3, op = 0 ∨ op = 1 ∨ op = 2 ∨ op = 3 ∨ op = 4 ∨ 5 ≤ op.toNat := by decide
  rw [← commandWord_fields w]
  obtain hop | hop | hop | hop | hop | hop := hops (opField w)
  · rw [hop]; exact read _ _
  · rw [hop]; exact write _ _
  · rw [hop]; exact step _ _
  · rw [hop]; exact ack _ _
  · rw [hop]; exact reset _ _
  · exact reserved _ _ _ hop

/-- A STEP word decodes to STEP, whatever its address and its data (R90). -/
theorem decodeWord_step (a : PortAddr) (d : Byte) : decodeWord (commandWord 2 a d) = .step := by
  simp [decodeWord]

/-! ## The ports that an address can name -/

/-- Row 25 of R92 stands for the addresses outside the map only; every other row names a register. -/
def NamedPort (p : Port) : Prop := ∀ a, p = .unmapped a → mappedAddress a = false

/-- What an address names is a port of R92. -/
theorem namedPort_decodePort (a : PortAddr) : NamedPort (decodePort a) := by
  intro x hx
  have hsame : x = a := by
    have haddress := decodePort_address a
    rwa [hx] at haddress
  rw [hsame, ← Bool.not_eq_true]
  exact fun hmapped => decodePort_ne_unmapped a hmapped x hx

/-- The address of a port names that port, with its operands (R92, R93). -/
theorem decodePort_of_address (p : Port) (hnamed : NamedPort p) : decodePort p.address = p := by
  cases p with
  | volL v k => exact (decodePort_voiceAddress v ⟨k.val, by omega⟩).trans (voicePort_volL v k)
  | volR v k => exact (decodePort_voiceAddress v ⟨2 + k.val, by omega⟩).trans (voicePort_volR v k)
  | rate v k => exact (decodePort_voiceAddress v ⟨4 + k.val, by omega⟩).trans (voicePort_rate v k)
  | start v k => exact (decodePort_voiceAddress v ⟨6 + k.val, by omega⟩).trans (voicePort_start v k)
  | adsrCfg v k => exact (decodePort_voiceAddress v ⟨8 + k.val, by omega⟩).trans (voicePort_adsrCfg v k)
  | adsrVol v k => exact (decodePort_voiceAddress v ⟨12 + k.val, by omega⟩).trans (voicePort_adsrVol v k)
  | repeatAddr v k => exact (decodePort_voiceAddress v ⟨14 + k.val, by omega⟩).trans (voicePort_repeatAddr v k)
  | mvolL k => exact decodePort_mvolL k
  | mvolR k => exact decodePort_mvolR k
  | rvolL k => exact decodePort_rvolL k
  | rvolR k => exact decodePort_rvolR k
  | kon k => exact decodePort_kon k
  | konHigh => exact decodePort_konHigh
  | koff k => exact decodePort_koff k
  | koffHigh => exact decodePort_koffHigh
  | chrvb k => exact decodePort_chrvb k
  | irqa k => exact decodePort_irqa k
  | stga k => exact decodePort_stga k
  | fifo k => exact decodePort_fifo k
  | ctrl k => exact decodePort_ctrl k
  | xfer k => exact decodePort_xfer k
  | stat k => exact decodePort_stat k
  | cdvolL k => exact decodePort_cdvolL k
  | cdvolR k => exact decodePort_cdvolR k
  | unmapped a => exact decodePort_unmapped a (hnamed a rfl)

/-! ## Decoding what the encoder writes -/

/-- The READ word of an address decodes to the READ of what the address names. -/
theorem decodeWord_readCommand (a : PortAddr) : decodeWord (readCommand a) = (decodePort a).readInstr := by
  rw [readCommand, busAddress_eq, decodeWord_read]

/-- The WRITE word of an address decodes to the WRITE of its byte to what the address names. -/
theorem decodeWord_writeCommand (a : PortAddr) (b : Byte) :
    decodeWord (writeCommand a b) = (decodePort a).writeInstr b := by
  rw [writeCommand, busAddress_eq, decodeWord_write]

/-- The READ word of a port's address decodes to the READ of that port. -/
theorem decodeWord_readCommand_address (p : Port) (hnamed : NamedPort p := by exact fun _ => Port.noConfusion) :
    decodeWord (readCommand p.address) = p.readInstr := by
  rw [decodeWord_readCommand, decodePort_of_address p hnamed]

/-- The WRITE word of a port's address decodes to the WRITE of that port. -/
theorem decodeWord_writeCommand_address (p : Port) (b : Byte)
    (hnamed : NamedPort p := by exact fun _ => Port.noConfusion) :
    decodeWord (writeCommand p.address b) = p.writeInstr b := by
  rw [decodeWord_writeCommand, decodePort_of_address p hnamed]

/-- An UNMAPPED access that a word can carry names an address outside the map. -/
theorem namedPort_unmapped {a : PortAddr} (h : (!mappedAddress a) = true) : NamedPort (.unmapped a) := by
  intro x hx
  cases hx
  simpa using h

/-- Settles O5: the word of an access is the word of a port's address, and the other commands are their op. -/
theorem decodeAfterEncodeIsIdentity : Obligations.DecodeAfterEncodeIsIdentity := by
  intro i hwf
  cases i with
  | rdVoll v k => exact decodeWord_readCommand_address (.volL v k)
  | wrVoll v k b => exact decodeWord_writeCommand_address (.volL v k) b
  | rdVolr v k => exact decodeWord_readCommand_address (.volR v k)
  | wrVolr v k b => exact decodeWord_writeCommand_address (.volR v k) b
  | rdRate v k => exact decodeWord_readCommand_address (.rate v k)
  | wrRate v k b => exact decodeWord_writeCommand_address (.rate v k) b
  | rdStart v k => exact decodeWord_readCommand_address (.start v k)
  | wrStart v k b => exact decodeWord_writeCommand_address (.start v k) b
  | rdAdsrcfg v k => exact decodeWord_readCommand_address (.adsrCfg v k)
  | wrAdsrcfg v k b => exact decodeWord_writeCommand_address (.adsrCfg v k) b
  | rdAdsrvol v k => exact decodeWord_readCommand_address (.adsrVol v k)
  | wrAdsrvol v k b => exact decodeWord_writeCommand_address (.adsrVol v k) b
  | rdRepeat v k => exact decodeWord_readCommand_address (.repeatAddr v k)
  | wrRepeat v k b => exact decodeWord_writeCommand_address (.repeatAddr v k) b
  | rdMvoll k => exact decodeWord_readCommand_address (.mvolL k)
  | wrMvoll k b => exact decodeWord_writeCommand_address (.mvolL k) b
  | rdMvolr k => exact decodeWord_readCommand_address (.mvolR k)
  | wrMvolr k b => exact decodeWord_writeCommand_address (.mvolR k) b
  | rdRvoll k => exact decodeWord_readCommand_address (.rvolL k)
  | wrRvoll k b => exact decodeWord_writeCommand_address (.rvolL k) b
  | rdRvolr k => exact decodeWord_readCommand_address (.rvolR k)
  | wrRvolr k b => exact decodeWord_writeCommand_address (.rvolR k) b
  | rdChrvb k => exact decodeWord_readCommand_address (.chrvb k)
  | wrChrvb k b => exact decodeWord_writeCommand_address (.chrvb k) b
  | rdCdvoll k => exact decodeWord_readCommand_address (.cdvolL k)
  | wrCdvoll k b => exact decodeWord_writeCommand_address (.cdvolL k) b
  | rdCdvolr k => exact decodeWord_readCommand_address (.cdvolR k)
  | wrCdvolr k b => exact decodeWord_writeCommand_address (.cdvolR k) b
  | rdUnmapped a => exact decodeWord_readCommand_address (.unmapped a) (namedPort_unmapped hwf)
  | wrUnmapped a b => exact decodeWord_writeCommand_address (.unmapped a) b (namedPort_unmapped hwf)
  | rdKon k => exact (decodeWord_readCommand _).trans (decodePort_kon_read k)
  | wrKon k b => exact decodeWord_writeCommand_address (.kon k) b
  | wrKonCommit b => exact decodeWord_writeCommand_address .konHigh b
  | rdKoff k => exact (decodeWord_readCommand _).trans (decodePort_koff_read k)
  | wrKoff k b => exact decodeWord_writeCommand_address (.koff k) b
  | wrKoffCommit b => exact decodeWord_writeCommand_address .koffHigh b
  | rdIrqa k => exact decodeWord_readCommand_address (.irqa k)
  | wrIrqa k b => exact decodeWord_writeCommand_address (.irqa k) b
  | rdStga k => exact decodeWord_readCommand_address (.stga k)
  | wrStga k b => exact decodeWord_writeCommand_address (.stga k) b
  | rdFifo k => exact decodeWord_readCommand_address (.fifo k)
  | wrFifo k b => exact decodeWord_writeCommand_address (.fifo k) b
  | rdCtrl k => exact decodeWord_readCommand_address (.ctrl k)
  | wrCtrl k b => exact decodeWord_writeCommand_address (.ctrl k) b
  | rdXfer k => exact decodeWord_readCommand_address (.xfer k)
  | wrXfer k b => exact decodeWord_writeCommand_address (.xfer k) b
  | rdStat k => exact decodeWord_readCommand_address (.stat k)
  | wrStat k b => exact decodeWord_writeCommand_address (.stat k) b
  | step => exact decodeWord_step 0 0
  | ack => exact decodeWord_ack 0 0
  | reset => exact decodeWord_reset 0 0
  | reserved op => exact decodeWord_reserved (of_decide_eq_true hwf) 0 0

/-! ## Encoding what the decoder reads -/

/-- The READ of a port is encoded as the READ of its address; the two rows of a key mask are one range for a READ. -/
theorem encode_readInstr (p : Port) : encode p.readInstr = readCommand p.address := by
  cases p <;> rfl

/-- The WRITE of a port is encoded as the WRITE of its address. -/
theorem encode_writeInstr (p : Port) (b : Byte) : encode (p.writeInstr b) = writeCommand p.address b := by
  cases p <;> rfl

/-- A READ word is encoded again with its data cleared (R90). -/
theorem encode_decodeWord_read (a : PortAddr) (d : Byte) :
    encode (decodeWord (commandWord 0 a d)) = commandWord 0 a 0 := by
  rw [decodeWord_read, encode_readInstr, decodePort_address, readCommand, busAddress_eq]

/-- A WRITE word is encoded again as it was (R90). -/
theorem encode_decodeWord_write (a : PortAddr) (d : Byte) :
    encode (decodeWord (commandWord 1 a d)) = commandWord 1 a d := by
  rw [decodeWord_write, encode_writeInstr, decodePort_address, writeCommand, busAddress_eq]

/-- The op of a command word, read off its number (R90). -/
theorem commandWord_toNat_op (op : BitVec 3) (a : PortAddr) (d : Byte) :
    (commandWord op a d).toNat / 2 ^ 40 = op.toNat := by
  have ha := a.isLt
  have hd := d.isLt
  rw [commandWord_toNat]
  omega

/-- The address of a command word, read off its number (R90). -/
theorem commandWord_toNat_addr (op : BitVec 3) (a : PortAddr) (d : Byte) :
    (commandWord op a d).toNat / 2 ^ 8 % 2 ^ 32 = a.toNat := by
  have ha := a.isLt
  have hd := d.isLt
  rw [commandWord_toNat]
  omega

/-- The data of a command word, read off its number (R90). -/
theorem commandWord_toNat_data (op : BitVec 3) (a : PortAddr) (d : Byte) :
    (commandWord op a d).toNat % 2 ^ 8 = d.toNat := by
  have hd := d.isLt
  rw [commandWord_toNat]
  omega

/-- A word with the fields its command ignores set to 0, as the statement says it: `addr` unless op is READ or WRITE, `data`
unless op is WRITE (R90). -/
def clearedWord (w : Command) : Command :=
  word (w.toNat / 2 ^ 40) (if w.toNat / 2 ^ 40 ≤ 1 then w.toNat / 2 ^ 8 % 2 ^ 32 else 0)
    (if w.toNat / 2 ^ 40 = 1 then w.toNat % 2 ^ 8 else 0)

theorem clearedWord_read (a : PortAddr) (d : Byte) : clearedWord (commandWord 0 a d) = commandWord 0 a 0 := by
  rw [clearedWord, commandWord_toNat_op, commandWord_toNat_addr]
  exact word_eq_commandWord 0 a 0

theorem clearedWord_write (a : PortAddr) (d : Byte) : clearedWord (commandWord 1 a d) = commandWord 1 a d := by
  rw [clearedWord, commandWord_toNat_op, commandWord_toNat_addr, commandWord_toNat_data]
  exact word_eq_commandWord 1 a d

theorem clearedWord_other {op : BitVec 3} (hop : 2 ≤ op.toNat) (a : PortAddr) (d : Byte) :
    clearedWord (commandWord op a d) = commandWord op 0 0 := by
  rw [clearedWord, commandWord_toNat_op, if_neg (by omega), if_neg (by omega)]
  exact word_eq_commandWord op 0 0

/-- Settles O6: by the op of the word, the encoder writes the fields the decoder has kept, and 0 for the others. -/
theorem encodeAfterDecodeClearsIgnoredFields : Obligations.EncodeAfterDecodeClearsIgnoredFields := by
  intro w
  change encode (decodeWord w) = clearedWord w
  induction w using command_cases with
  | read a d => rw [encode_decodeWord_read, clearedWord_read]
  | write a d => rw [encode_decodeWord_write, clearedWord_write]
  | step a d => rw [decodeWord_step, clearedWord_other (by decide), encode]
  | ack a d => rw [decodeWord_ack, clearedWord_other (by decide), encode]
  | reset a d => rw [decodeWord_reset, clearedWord_other (by decide), encode]
  | reserved op a d hop => rw [decodeWord_reserved hop, clearedWord_other (by omega), encode]

/-! ## What every word decodes to -/

/-- The READ of a port is well formed: only row 25 carries an operand that is checked. -/
theorem readInstr_wellFormed {p : Port} (hnamed : NamedPort p) : p.readInstr.WellFormed := by
  cases p with
  | unmapped a => simpa [Instr.WellFormed, Instr.wellFormed, Port.readInstr] using hnamed a rfl
  | _ => rfl

/-- The WRITE of a port is well formed: only row 25 carries an operand that is checked. -/
theorem writeInstr_wellFormed {p : Port} (hnamed : NamedPort p) (b : Byte) : (p.writeInstr b).WellFormed := by
  cases p with
  | unmapped a => simpa [Instr.WellFormed, Instr.wellFormed, Port.writeInstr] using hnamed a rfl
  | _ => rfl

/-- Settles O4: by the op of the word; the two checks are of UNMAPPED addresses and of reserved ops. -/
theorem everyWordDecodesWellFormed : Obligations.EveryWordDecodesWellFormed := by
  intro w
  induction w using command_cases with
  | read a d => exact decodeWord_read a d ▸ readInstr_wellFormed (namedPort_decodePort a)
  | write a d => exact decodeWord_write a d ▸ writeInstr_wellFormed (namedPort_decodePort a) d
  | step a d => exact decodeWord_step a d ▸ rfl
  | ack a d => exact decodeWord_ack a d ▸ rfl
  | reset a d => exact decodeWord_reset a d ▸ rfl
  | reserved op a d hop => exact decodeWord_reserved hop a d ▸ decide_eq_true hop

/-- Settles O7: the decoder's answer for each of these ops does not name the ignored fields. -/
theorem ignoredFieldsChangeNothing : Obligations.IgnoredFieldsChangeNothing := by
  intro a a' d d'
  have hread (d : Byte) : decodeWord (word 0 a.toNat d.toNat) = (decodePort a).readInstr :=
    (congrArg decodeWord (word_eq_commandWord 0 a d)).trans (decodeWord_read a d)
  have hstep (a : PortAddr) (d : Byte) : decodeWord (word 2 a.toNat d.toNat) = .step :=
    (congrArg decodeWord (word_eq_commandWord 2 a d)).trans (decodeWord_step a d)
  have hack (a : PortAddr) (d : Byte) : decodeWord (word 3 a.toNat d.toNat) = .ack :=
    (congrArg decodeWord (word_eq_commandWord 3 a d)).trans (decodeWord_ack a d)
  have hreset (a : PortAddr) (d : Byte) : decodeWord (word 4 a.toNat d.toNat) = .reset :=
    (congrArg decodeWord (word_eq_commandWord 4 a d)).trans (decodeWord_reset a d)
  refine ⟨(hread d).trans (hread d').symm, fun op hlow hhigh => ?_⟩
  obtain rfl | rfl | rfl : op = 2 ∨ op = 3 ∨ op = 4 := by omega
  · rw [hstep, hstep]
  · rw [hack, hack]
  · rw [hreset, hreset]

/-- Settles O3: the decoder run on each of the written-out words. -/
theorem writtenOutWordsDecode : Obligations.WrittenOutWordsDecode :=
  ⟨rfl, rfl, rfl, rfl, rfl, rfl, rfl, rfl, rfl, rfl, rfl, rfl, rfl, rfl, rfl⟩

end Sys2Proof.Laws

/-! The opcode table and the decode map name the same mnemonic (R99). The rows of the mapped addresses exclude each other, so
the row that accepts a word is the one the table finds; and each of them accepts words of mapped addresses only, so the words
of every other address fall to the rows that match on `op` alone. -/

namespace Sys2Proof.Laws

/-- The rows of the opcode table that match on an address. -/
def mappedRows : List TableRow := voiceRows ++ globalRows ++ keyRows

/-! ## The row that accepts a word -/

/-- A row accepts a word when it accepts each of the word's three fields. -/
theorem accepts_commandWord (r : TableRow) (op : BitVec 3) (a : PortAddr) (d : Byte) :
    r.accepts (commandWord op a d) = true ↔
      op &&& opField r.mask = opField r.bits ∧ a &&& addrField r.mask = addrField r.bits ∧
        d &&& dataField r.mask = dataField r.bits := by
  have hop : opField (commandWord op a d &&& r.mask) = op &&& opField r.mask :=
    BitVec.extractLsb'_and.trans (congrArg (· &&& opField r.mask) (opField_commandWord op a d))
  have haddr : addrField (commandWord op a d &&& r.mask) = a &&& addrField r.mask :=
    BitVec.extractLsb'_and.trans (congrArg (· &&& addrField r.mask) (addrField_commandWord op a d))
  have hdata : dataField (commandWord op a d &&& r.mask) = d &&& dataField r.mask :=
    BitVec.extractLsb'_and.trans (congrArg (· &&& dataField r.mask) (dataField_commandWord op a d))
  rw [TableRow.accepts, beq_iff_eq, ← hop, ← haddr, ← hdata]
  constructor
  · intro h
    rw [h]
    exact ⟨rfl, rfl, rfl⟩
  · rintro ⟨h1, h2, h3⟩
    rw [← commandWord_fields (_ &&& r.mask), h1, h2, h3, commandWord_fields]

/-- Where the members of a list exclude each other, the one that passes a test is the one the search finds. -/
theorem find?_eq_some_of_pairwise {α : Type} {p : α → Bool} {x : α} {l : List α}
    (hexcl : l.Pairwise fun y z => ¬ (p y = true ∧ p z = true)) (hmem : x ∈ l) (hx : p x = true) :
    l.find? p = some x := by
  induction l with
  | nil => cases hmem
  | cons y l ih =>
    obtain ⟨hy, hl⟩ := List.pairwise_cons.1 hexcl
    rcases List.mem_cons.1 hmem with rfl | hmem
    · rw [List.find?_cons_of_pos hx]
    · rw [List.find?_cons_of_neg fun hpy => hy x hmem ⟨hpy, hx⟩]
      exact ih hl hmem

/-- Two rows that ask different values of one bit accept no common word. -/
theorem not_accepts_both {r r' : TableRow} (hclash : (r.bits ^^^ r'.bits) &&& r.mask &&& r'.mask ≠ 0) (w : Command) :
    ¬ (r.accepts w = true ∧ r'.accepts w = true) := by
  rintro ⟨h, h'⟩
  rw [TableRow.accepts, beq_iff_eq] at h h'
  apply hclash
  rw [← h, ← h']
  change _ = 0#43
  ext j hj
  have hbit : ∀ x m m' : Bool, ((((x && m) ^^ (x && m')) && m) && m') = false := by decide
  simpa only [BitVec.getElem_and, BitVec.getElem_xor, BitVec.getElem_zero] using hbit w[j] r.mask[j] r'.mask[j]

/-- No word is accepted by two rows of mapped addresses. -/
theorem mappedRows_exclusive (w : Command) :
    mappedRows.Pairwise fun r r' => ¬ (r.accepts w = true ∧ r'.accepts w = true) := by
  have hclash : mappedRows.Pairwise fun r r' => (r.bits ^^^ r'.bits) &&& r.mask &&& r'.mask ≠ 0 := by decide
  exact hclash.imp fun h => not_accepts_both h w

/-- A mask with every bit of `op` keeps the op. -/
theorem and_allOps : ∀ op : BitVec 3, op &&& 7 = op := by decide

/-- The mnemonic of a word that row n of the mapped addresses accepts. -/
theorem tableMnemonic_of_row (n : Nat) {m : String} {op : BitVec 3} {base mask : PortAddr}
    (hrow : mappedRows[n]? = some ⟨m, commandWord op base 0, commandWord 7 mask 0⟩) {a : PortAddr}
    (ha : a &&& mask = base) (d : Byte) : tableMnemonic (commandWord op a d) = some m := by
  have hacc : TableRow.accepts ⟨m, commandWord op base 0, commandWord 7 mask 0⟩ (commandWord op a d) = true := by
    simpa [accepts_commandWord, ha] using and_allOps op
  have hfind := find?_eq_some_of_pairwise (mappedRows_exclusive _) (List.mem_of_getElem? hrow) hacc
  have htable : opcodeTable = mappedRows ++ restRows := rfl
  rw [tableMnemonic, htable, List.find?_append, hfind]
  rfl

/-! ## The words of mapped addresses -/

/-- The table and the decode map agree on the READ words and on the WRITE words of a port's address. -/
def TableAgrees (p : Port) : Prop :=
  ∀ d, tableMnemonic (commandWord 0 p.address d) = some p.readInstr.mnemonic ∧
    tableMnemonic (commandWord 1 p.address d) = some (p.writeInstr d).mnemonic

/-- A port whose address is accepted by one row for READ and one for WRITE, with its mnemonics. -/
theorem tableAgrees_of_rows {p : Port} (n n' : Nat) (base mask base' mask' : PortAddr)
    (hread : mappedRows[n]? = some ⟨p.readInstr.mnemonic, commandWord 0 base 0, commandWord 7 mask 0⟩)
    (hwrite : ∀ d, mappedRows[n']? = some ⟨(p.writeInstr d).mnemonic, commandWord 1 base' 0, commandWord 7 mask' 0⟩)
    (haddr : p.address &&& mask = base) (haddr' : p.address &&& mask' = base') : TableAgrees p := fun d =>
  ⟨tableMnemonic_of_row n hread haddr d, tableMnemonic_of_row n' (hwrite d) haddr' d⟩

/-- A voice register has four rows from row n on: READ of voices 0 to 15 and of voices 16 to 23, then WRITE of both. -/
theorem tableAgrees_voice {p : Port} (n : Nat) (base mask : PortAddr) (v : Fin 24)
    (hread : mappedRows[n]? = some ⟨p.readInstr.mnemonic, commandWord 0 (0x1C00 ||| base) 0,
      commandWord 7 (0xFFFFFF00 ||| mask) 0⟩)
    (hread' : mappedRows[n + 1]? = some ⟨p.readInstr.mnemonic, commandWord 0 (0x1D00 ||| base) 0,
      commandWord 7 (0xFFFFFF80 ||| mask) 0⟩)
    (hwrite : ∀ d, mappedRows[n + 2]? = some ⟨(p.writeInstr d).mnemonic, commandWord 1 (0x1C00 ||| base) 0,
      commandWord 7 (0xFFFFFF00 ||| mask) 0⟩)
    (hwrite' : ∀ d, mappedRows[n + 3]? = some ⟨(p.writeInstr d).mnemonic, commandWord 1 (0x1D00 ||| base) 0,
      commandWord 7 (0xFFFFFF80 ||| mask) 0⟩)
    (haddr : if v.val < 16 then p.address &&& (0xFFFFFF00 ||| mask) = 0x1C00 ||| base
      else p.address &&& (0xFFFFFF80 ||| mask) = 0x1D00 ||| base) : TableAgrees p := by
  split at haddr
  · exact tableAgrees_of_rows n (n + 2) _ _ _ _ hread hwrite haddr haddr
  · exact tableAgrees_of_rows (n + 1) (n + 3) _ _ _ _ hread' hwrite' haddr haddr

/-- A global register of two bytes has two rows from row n on: READ and WRITE. -/
theorem tableAgrees_global {p : Port} (n : Nat) (base mask : PortAddr)
    (hread : mappedRows[n]? = some ⟨p.readInstr.mnemonic, commandWord 0 base 0, commandWord 7 mask 0⟩)
    (hwrite : ∀ d, mappedRows[n + 1]? = some ⟨(p.writeInstr d).mnemonic, commandWord 1 base 0, commandWord 7 mask 0⟩)
    (haddr : p.address &&& mask = base) : TableAgrees p :=
  tableAgrees_of_rows n (n + 1) _ _ _ _ hread hwrite haddr haddr

/-- Each port of a register has its rows in the table (R92, R99). -/
theorem unmapped_or_tableAgrees (p : Port) : (∃ a, p = .unmapped a) ∨ TableAgrees p := by
  cases p with
  | volL v k => exact .inr <| tableAgrees_voice 0 0x0 0xE v rfl rfl (fun _ => rfl) (fun _ => rfl) (by decide +revert)
  | volR v k => exact .inr <| tableAgrees_voice 4 0x2 0xE v rfl rfl (fun _ => rfl) (fun _ => rfl) (by decide +revert)
  | rate v k => exact .inr <| tableAgrees_voice 8 0x4 0xE v rfl rfl (fun _ => rfl) (fun _ => rfl) (by decide +revert)
  | start v k => exact .inr <| tableAgrees_voice 12 0x6 0xE v rfl rfl (fun _ => rfl) (fun _ => rfl) (by decide +revert)
  | adsrCfg v k => exact .inr <| tableAgrees_voice 16 0x8 0xC v rfl rfl (fun _ => rfl) (fun _ => rfl) (by decide +revert)
  | adsrVol v k => exact .inr <| tableAgrees_voice 20 0xC 0xE v rfl rfl (fun _ => rfl) (fun _ => rfl) (by decide +revert)
  | repeatAddr v k => exact .inr <| tableAgrees_voice 24 0xE 0xE v rfl rfl (fun _ => rfl) (fun _ => rfl) (by decide +revert)
  | mvolL k => exact .inr <| tableAgrees_global 28 0x1D80 0xFFFFFFFE rfl (fun _ => rfl) (by decide +revert)
  | mvolR k => exact .inr <| tableAgrees_global 30 0x1D82 0xFFFFFFFE rfl (fun _ => rfl) (by decide +revert)
  | rvolL k => exact .inr <| tableAgrees_global 32 0x1D84 0xFFFFFFFE rfl (fun _ => rfl) (by decide +revert)
  | rvolR k => exact .inr <| tableAgrees_global 34 0x1D86 0xFFFFFFFE rfl (fun _ => rfl) (by decide +revert)
  | chrvb k => exact .inr <| tableAgrees_global 36 0x1D98 0xFFFFFFFC rfl (fun _ => rfl) (by decide +revert)
  | irqa k => exact .inr <| tableAgrees_global 38 0x1DA4 0xFFFFFFFE rfl (fun _ => rfl) (by decide +revert)
  | stga k => exact .inr <| tableAgrees_global 40 0x1DA6 0xFFFFFFFE rfl (fun _ => rfl) (by decide +revert)
  | fifo k => exact .inr <| tableAgrees_global 42 0x1DA8 0xFFFFFFFE rfl (fun _ => rfl) (by decide +revert)
  | ctrl k => exact .inr <| tableAgrees_global 44 0x1DAA 0xFFFFFFFE rfl (fun _ => rfl) (by decide +revert)
  | xfer k => exact .inr <| tableAgrees_global 46 0x1DAC 0xFFFFFFFE rfl (fun _ => rfl) (by decide +revert)
  | stat k => exact .inr <| tableAgrees_global 48 0x1DAE 0xFFFFFFFE rfl (fun _ => rfl) (by decide +revert)
  | cdvolL k => exact .inr <| tableAgrees_global 50 0x1DB0 0xFFFFFFFE rfl (fun _ => rfl) (by decide +revert)
  | cdvolR k => exact .inr <| tableAgrees_global 52 0x1DB2 0xFFFFFFFE rfl (fun _ => rfl) (by decide +revert)
  | kon k =>
    by_cases hk : k.val < 2
    · exact .inr <| tableAgrees_of_rows 54 55 0x1D88 0xFFFFFFFC 0x1D88 0xFFFFFFFE rfl (fun _ => rfl) (by decide +revert)
        (by decide +revert)
    · exact .inr <| tableAgrees_of_rows 54 56 0x1D88 0xFFFFFFFC 0x1D8A 0xFFFFFFFF rfl (fun _ => rfl) (by decide +revert)
        (by decide +revert)
  | konHigh =>
    exact .inr <| tableAgrees_of_rows 54 57 0x1D88 0xFFFFFFFC 0x1D8B 0xFFFFFFFF rfl (fun _ => rfl) (by decide) (by decide)
  | koff k =>
    by_cases hk : k.val < 2
    · exact .inr <| tableAgrees_of_rows 58 59 0x1D8C 0xFFFFFFFC 0x1D8C 0xFFFFFFFE rfl (fun _ => rfl) (by decide +revert)
        (by decide +revert)
    · exact .inr <| tableAgrees_of_rows 58 60 0x1D8C 0xFFFFFFFC 0x1D8E 0xFFFFFFFF rfl (fun _ => rfl) (by decide +revert)
        (by decide +revert)
  | koffHigh =>
    exact .inr <| tableAgrees_of_rows 58 61 0x1D8C 0xFFFFFFFC 0x1D8F 0xFFFFFFFF rfl (fun _ => rfl) (by decide) (by decide)
  | unmapped a => exact .inl ⟨a, rfl⟩

/-- The table and the decode map agree on the READ and WRITE words of a mapped address. -/
theorem tableAgrees_decodePort {a : PortAddr} (hmapped : mappedAddress a = true) : TableAgrees (decodePort a) :=
  (unmapped_or_tableAgrees _).resolve_left fun ⟨x, hx⟩ => decodePort_ne_unmapped a hmapped x hx

/-! ## The other words -/

/-- The addresses a row can accept lie between its address bits and those with every free bit set. This says that they are
all mapped, and that the row accepts a READ or a WRITE only. -/
def rowInsideMap (r : TableRow) : Bool :=
  let low := (addrField r.bits).toNat
  let high := low + (~~~addrField r.mask).toNat
  opField r.mask == 7 && (opField r.bits).toNat ≤ 1 &&
    ((0x1C00 ≤ low && high ≤ 0x1D8F) || (0x1D98 ≤ low && high ≤ 0x1D9B) || (0x1DA4 ≤ low && high ≤ 0x1DB3))

/-- An address lies between its masked part and that part with every free bit set. -/
theorem toNat_between_of_and {a mask base : PortAddr} (h : a &&& mask = base) :
    base.toNat ≤ a.toNat ∧ a.toNat ≤ base.toNat + (~~~mask).toNat := by
  have hdisjoint : (a &&& mask) &&& (a &&& ~~~mask) = 0#32 := by
    ext j hj
    have hbit : ∀ x m : Bool, ((x && m) && (x && !m)) = false := by decide
    simpa only [BitVec.getElem_and, BitVec.getElem_not, BitVec.getElem_zero] using hbit a[j] mask[j]
  have hunion : (a &&& mask) ||| (a &&& ~~~mask) = a := by
    ext j hj
    have hbit : ∀ x m : Bool, ((x && m) || (x && !m)) = x := by decide
    simpa only [BitVec.getElem_and, BitVec.getElem_not, BitVec.getElem_or] using hbit a[j] mask[j]
  have hsum : a.toNat = base.toNat + (a &&& ~~~mask).toNat := by
    rw [← h, ← BitVec.toNat_add_of_and_eq_zero hdisjoint, BitVec.add_eq_or_of_and_eq_zero _ _ hdisjoint, hunion]
  have hfree : (a &&& ~~~mask).toNat ≤ (~~~mask).toNat := by
    rw [BitVec.toNat_and]
    exact Nat.and_le_right
  omega

/-- A row inside the map accepts READ and WRITE words of mapped addresses only. -/
theorem mapped_of_accepts {r : TableRow} (hinside : rowInsideMap r = true) {op : BitVec 3} {a : PortAddr} {d : Byte}
    (hacc : r.accepts (commandWord op a d) = true) : op.toNat ≤ 1 ∧ mappedAddress a = true := by
  obtain ⟨hopField, haddrField, -⟩ := (accepts_commandWord r op a d).1 hacc
  obtain ⟨hlow, hhigh⟩ := toNat_between_of_and haddrField
  simp only [rowInsideMap, Bool.and_eq_true, Bool.or_eq_true, beq_iff_eq, decide_eq_true_eq] at hinside
  obtain ⟨⟨hmask, hop⟩, hrange⟩ := hinside
  rw [hmask, and_allOps] at hopField
  refine ⟨hopField ▸ hop, ?_⟩
  simp only [mappedAddress, Bool.and_eq_true, Bool.or_eq_true, decide_eq_true_eq]
  omega

/-- A word that is no READ or WRITE of a mapped address is found among the rows that match on `op` alone. -/
theorem tableMnemonic_of_unmapped {op : BitVec 3} {a : PortAddr} (h : ¬ (op.toNat ≤ 1 ∧ mappedAddress a = true))
    (d : Byte) :
    tableMnemonic (commandWord op a d) = (restRows.find? (·.accepts (commandWord op 0 0))).map (·.mnemonic) := by
  have hinside : ∀ r ∈ mappedRows, rowInsideMap r = true := by decide
  have hnone : mappedRows.find? (·.accepts (commandWord op a d)) = none := by
    rw [List.find?_eq_none]
    exact fun r hr hacc => h (mapped_of_accepts (hinside r hr) hacc)
  have hopOnly : ∀ r ∈ restRows, r.accepts (commandWord op a d) = r.accepts (commandWord op 0 0) := by
    intro r hr
    have hfree : ∀ r ∈ restRows, addrField r.mask = 0 ∧ dataField r.mask = 0 := by decide
    obtain ⟨haddr, hdata⟩ := hfree r hr
    rw [Bool.eq_iff_iff, accepts_commandWord, accepts_commandWord, haddr, hdata]
    simp
  have htable : opcodeTable = mappedRows ++ restRows := rfl
  rw [tableMnemonic, htable, List.find?_append, hnone, Option.none_or, List.find?_congr hopOnly]

/-- Settles O8: by the op of the word, and for a READ or a WRITE by whether its address is mapped. -/
theorem opcodeTableAgreesWithDecodeMap : Obligations.OpcodeTableAgreesWithDecodeMap := by
  intro w
  induction w using command_cases with
  | read a d =>
    rw [decodeWord_read]
    by_cases hmapped : mappedAddress a = true
    · have hagrees := (tableAgrees_decodePort hmapped d).1
      rwa [decodePort_address] at hagrees
    · rw [tableMnemonic_of_unmapped (fun h => hmapped h.2), decodePort_unmapped a (by simpa using hmapped)]
      rfl
  | write a d =>
    rw [decodeWord_write]
    by_cases hmapped : mappedAddress a = true
    · have hagrees := (tableAgrees_decodePort hmapped d).2
      rwa [decodePort_address] at hagrees
    · rw [tableMnemonic_of_unmapped (fun h => hmapped h.2), decodePort_unmapped a (by simpa using hmapped)]
      rfl
  | step a d => rw [decodeWord_step, tableMnemonic_of_unmapped (fun h => absurd h.1 (by decide))]; rfl
  | ack a d => rw [decodeWord_ack, tableMnemonic_of_unmapped (fun h => absurd h.1 (by decide))]; rfl
  | reset a d => rw [decodeWord_reset, tableMnemonic_of_unmapped (fun h => absurd h.1 (by decide))]; rfl
  | reserved op a d hop =>
    rw [decodeWord_reserved hop, tableMnemonic_of_unmapped (fun h => by omega)]
    obtain rfl | rfl | rfl : op = 5 ∨ op = 6 ∨ op = 7 := by revert op; decide
    · rfl
    · rfl
    · rfl

end Sys2Proof.Laws

/-! Taking one command and running it (R77, R81): what a step is with a command issued, and which commands complete. -/

namespace Sys2Proof.Machine

open Sys2Proof.Config Sys2Proof.Claims

/-- With a command issued, a step runs the oldest one on the state without it. -/
theorem step_of_pending {s : State} {c : Command} {rest : List Command} (hpending : s.pending = c :: rest) :
    step s = exec (decodeWord c) { s with pending := rest } := by
  rw [step, takeCommand_cons s c rest hpending]

/-- With no command issued, a step holds the state (R282). -/
theorem step_of_noPending {s : State} (hpending : s.pending = []) : step s = .next s := by
  rw [step, takeCommand_nil s hpending, idle]

/-- A command placed as the very next one is the one the step runs, on the state before it was placed. -/
theorem step_issueNext (c : Command) (s : State) : step (issueNext c s) = exec (decodeWord c) s :=
  step_of_pending rfl

/-- Settles O1: both answers of the queue, whether or not the instruction is well formed. -/
theorem stepRunsTheOldestCommand : Obligations.StepRunsTheOldestCommand := by
  intro s
  refine ⟨fun w rest i hpending hdecode _ => ?_, step_of_noPending⟩
  rw [step_of_pending hpending, hdecode]

/-- Settles O2: a raw number that decodes is a command word, and that word is placed at the head of the queue. -/
theorem fetchedWordRunsNext : Obligations.FetchedWordRunsNext := by
  intro s nbits w i hdecode
  rw [decodeTableWord, decodeBits] at hdecode
  rw [State.withFetchWord]
  cases hbits : commandOfBits nbits w with
  | error e =>
    rw [hbits] at hdecode
    cases hdecode
  | ok c =>
    rw [hbits] at hdecode
    cases hdecode
    exact step_issueNext c s

/-- Settles O42: the state RESET leaves. -/
theorem resetLeavesThePowerOnState : Obligations.ResetLeavesThePowerOnState := exec_reset

/-- Every instruction but a reserved command answers a next state (R270). -/
theorem exec_completes {i : Instr} (hi : ∀ op, i ≠ .reserved op) (s : State) : ∃ t, exec i s = .next t := by
  cases i with
  | reserved op => exact absurd rfl (hi op)
  | _ => exact ⟨_, rfl⟩

/-- Settles O44: a reserved command is refused, and every other instruction completes. -/
theorem everyOperationCompletes : Obligations.EveryOperationCompletes := by
  intro i s
  constructor
  · rintro ⟨t, hexec⟩ op rfl
    cases hexec
  · exact fun hi => exec_completes hi s

end Sys2Proof.Machine

/-! What each command does to memory and to the flags, said once for all of them: five commands and RESET do something to
them, and every other command leaves them alone. -/

namespace Sys2Proof.Machine

open Sys2Proof.Config Sys2Proof.Claims

/-- Two states with the same memory, the same ready flag and the same voices playing. -/
structure State.SameMemoryAndFlags (s t : State) : Prop where
  mem : t.mem = s.mem
  ready : t.ready = s.ready
  playing : ∀ v, (t.voice v).playing = (s.voice v).playing

/-- A write to one voice that leaves it playing or Idle as it was. -/
theorem State.SameMemoryAndFlags.modifyVoice (s : State) (v : Fin voiceCount) (f : Voice → Voice)
    (hplay : ∀ x, (f x).playing = x.playing) : s.SameMemoryAndFlags (s.modifyVoice v f).finish where
  mem := rfl
  ready := rfl
  playing u := by
    rw [State.voice_finish, State.voice_modifyVoice]
    split
    · exact hplay _
    · rfl

/-- What an instruction that completes does: the six that write memory or a flag by what they leave, and the others by what
they leave alone. -/
inductive Effect (s : State) : Instr → State → Prop
  | step : Effect s .step (stepTick params s).finish
  | ack : Effect s .ack { s with ready := false, rdata := none }
  | reset : Effect s .reset { State.reset with pending := s.pending }
  | fifo (k : Fin 2) (b : Byte) : Effect s (.wrFifo k b) (stageByte params b s).finish
  | keyOn (b : Byte) : Effect s (.wrKonCommit b) (commitKeyOn { s with kon := regWriteByte s.kon 3 b }).finish
  | keyOff (b : Byte) : Effect s (.wrKoffCommit b) (commitKeyOff { s with koff := regWriteByte s.koff 3 b }).finish
  | register {i : Instr} {t : State} (hsame : s.SameMemoryAndFlags t) : Effect s i t

/-- Every instruction that completes has its effect. -/
theorem effect_of_exec {i : Instr} {s t : State} (hexec : exec i s = .next t) : Effect s i t := by
  cases i with
  | step => cases hexec; exact .step
  | ack => cases hexec; exact .ack
  | reset => cases hexec; exact .reset
  | wrFifo k b => cases hexec; exact .fifo k b
  | wrKonCommit b => cases hexec; exact .keyOn b
  | wrKoffCommit b => cases hexec; exact .keyOff b
  | reserved op => cases hexec
  | wrVoll v k b => cases hexec; exact .register (.modifyVoice s v _ fun _ => rfl)
  | wrVolr v k b => cases hexec; exact .register (.modifyVoice s v _ fun _ => rfl)
  | wrRate v k b => cases hexec; exact .register (.modifyVoice s v _ fun _ => rfl)
  | wrStart v k b => cases hexec; exact .register (.modifyVoice s v _ fun _ => rfl)
  | wrAdsrcfg v k b => cases hexec; exact .register (.modifyVoice s v _ fun _ => rfl)
  | wrAdsrvol v k b => cases hexec; exact .register (.modifyVoice s v _ fun _ => rfl)
  | wrRepeat v k b => cases hexec; exact .register (.modifyVoice s v _ fun _ => rfl)
  | _ => cases hexec; exact .register ⟨rfl, rfl, fun _ => rfl⟩

/-! ## The commits and the tick, flag by flag -/

theorem commitKeyOn_finish_mem (s : State) : (commitKeyOn s).finish.mem = s.mem := by
  rw [(commitKeyOn_sameButVoices s).finish_eq]

theorem commitKeyOn_finish_ready (s : State) : (commitKeyOn s).finish.ready = s.ready := by
  rw [(commitKeyOn_sameButVoices s).finish_eq]

theorem commitKeyOff_finish_mem (s : State) : (commitKeyOff s).finish.mem = s.mem := by
  rw [(commitKeyOff_sameButVoices s).finish_eq]

theorem commitKeyOff_finish_ready (s : State) : (commitKeyOff s).finish.ready = s.ready := by
  rw [(commitKeyOff_sameButVoices s).finish_eq]

/-- A key-on commit makes no voice Idle (R163). -/
theorem commitKeyOn_keeps_playing {s : State} {v : Fin voiceCount} (r : Reg32) (hplay : (s.voice v).playing = true) :
    ((commitKeyOn { s with kon := r }).finish.voice v).playing = true := by
  rw [commitKeyOn_finish_voice]
  split
  · rfl
  · exact hplay

/-- A key-off commit starts no voice (R166). -/
theorem commitKeyOff_keeps_idle {s : State} {v : Fin voiceCount} (r : Reg32) (hidle : (s.voice v).playing = false) :
    ((commitKeyOff { s with koff := r }).finish.voice v).playing = false := by
  rw [commitKeyOff_finish_voice]
  split
  · rfl
  · exact hidle

/-- The tick of an Idle voice is the identity on the machine (R202). -/
theorem voiceTick_idle_params (m : Memory) {x : Voice} (hidle : x.playing = false) : (voiceTick params m x).2 = x := by
  rw [voiceTick_idle params m x hidle, Voice.idleTick_of_keepsCache params x rfl]

/-- STEP leaves an Idle voice as it is (R202). -/
theorem stepTick_voice_idle {s : State} {v : Fin voiceCount} (hidle : (s.voice v).playing = false) :
    (stepTick params s).finish.voice v = s.voice v := by
  rw [State.voice_finish, stepTick_voice, voiceTick_idle_params s.mem hidle]

/-- STEP clears no ready flag (R246). -/
theorem stepTick_keeps_ready {s : State} (hready : s.ready = true) : (stepTick params s).finish.ready = true := by
  rw [State.finish_ready, stepTick_ready]
  split
  · rfl
  · exact hready

/-! ## Memory -/

/-- Settles O52: of the effects, only those two do not keep the memory. -/
theorem onlyFifoWriteAndResetChangeMemory : Obligations.OnlyFifoWriteAndResetChangeMemory := by
  intro i s t hexec hchanged
  cases effect_of_exec hexec with
  | step => exact absurd (stepTick_mem params s) hchanged
  | ack => exact absurd rfl hchanged
  | reset => exact .inl rfl
  | fifo k b => exact .inr ⟨k, b, rfl⟩
  | keyOn b => exact absurd (commitKeyOn_finish_mem _) hchanged
  | keyOff b => exact absurd (commitKeyOff_finish_mem _) hchanged
  | register hsame => exact absurd hsame.mem hchanged

/-! ## Each flag -/

/-- Only a key-on commit makes an Idle voice play (R36, R170). -/
theorem keyOn_of_playing_set {i : Instr} {s t : State} {v : Fin voiceCount} (hexec : exec i s = .next t)
    (hbefore : (s.voice v).playing = false) (hafter : (t.voice v).playing = true) : ∃ b, i = .wrKonCommit b := by
  have hnotSame : (t.voice v).playing ≠ (s.voice v).playing := by simp [hbefore, hafter]
  cases effect_of_exec hexec with
  | step => exact absurd (congrArg Voice.playing (stepTick_voice_idle hbefore)) hnotSame
  | ack => exact absurd rfl hnotSame
  | reset =>
    rw [voice_reset_withPending] at hafter
    cases hafter
  | fifo k b => exact absurd rfl hnotSame
  | keyOn b => exact ⟨b, rfl⟩
  | keyOff b => exact absurd ((commitKeyOff_keeps_idle _ hbefore).trans hbefore.symm) hnotSame
  | register hsame => exact absurd (hsame.playing v) hnotSame

/-- Only STEP, RESET and a key-off commit make a playing voice Idle (R36, R171, R210). -/
theorem writer_of_playing_cleared {i : Instr} {s t : State} {v : Fin voiceCount} (hexec : exec i s = .next t)
    (hbefore : (s.voice v).playing = true) (hafter : (t.voice v).playing = false) :
    i = .step ∨ i = .reset ∨ ∃ b, i = .wrKoffCommit b := by
  have hnotSame : (t.voice v).playing ≠ (s.voice v).playing := by simp [hbefore, hafter]
  cases effect_of_exec hexec with
  | step => exact .inl rfl
  | ack => exact absurd rfl hnotSame
  | reset => exact .inr (.inl rfl)
  | fifo k b => exact absurd rfl hnotSame
  | keyOn b => exact absurd ((commitKeyOn_keeps_playing _ hbefore).trans hbefore.symm) hnotSame
  | keyOff b => exact .inr (.inr ⟨b, rfl⟩)
  | register hsame => exact absurd (hsame.playing v) hnotSame

/-- Only STEP and RESET change the valid bit of a cache (R34, R55). -/
theorem writer_of_cacheValid {i : Instr} {s t : State} {v : Fin voiceCount} (hexec : exec i s = .next t)
    (hchanged : (t.voice v).cacheValid ≠ (s.voice v).cacheValid) : i = .step ∨ i = .reset := by
  by_contra hother
  obtain ⟨hstep, hreset⟩ := not_or.mp hother
  exact hchanged ((exec_sameButRegisters hexec hstep hreset).cacheValid v)

/-- Only STEP fills an empty cache: RESET leaves it empty (R34, R55). -/
theorem step_of_cacheValid_set {i : Instr} {s t : State} {v : Fin voiceCount} (hexec : exec i s = .next t)
    (hbefore : (s.voice v).cacheValid = false) (hafter : (t.voice v).cacheValid = true) : i = .step := by
  obtain hstep | rfl := writer_of_cacheValid hexec (v := v) (by simp [hbefore, hafter])
  · exact hstep
  · rw [exec_reset] at hexec
    cases hexec
    rw [voice_reset_withPending] at hafter
    cases hafter

/-- Only STEP sets the ready flag (R54, R246). -/
theorem step_of_ready_set {i : Instr} {s t : State} (hexec : exec i s = .next t) (hbefore : s.ready = false)
    (hafter : t.ready = true) : i = .step := by
  have hnotSame : t.ready ≠ s.ready := by simp [hbefore, hafter]
  cases effect_of_exec hexec with
  | step => rfl
  | ack => cases hafter
  | reset => cases hafter
  | fifo k b => exact absurd rfl hnotSame
  | keyOn b => exact absurd (commitKeyOn_finish_ready _) hnotSame
  | keyOff b => exact absurd (commitKeyOff_finish_ready _) hnotSame
  | register hsame => exact absurd hsame.ready hnotSame

/-- Only ACK and RESET clear the ready flag (R54, R253). -/
theorem writer_of_ready_cleared {i : Instr} {s t : State} (hexec : exec i s = .next t) (hbefore : s.ready = true)
    (hafter : t.ready = false) : i = .ack ∨ i = .reset := by
  have hnotSame : t.ready ≠ s.ready := by simp [hbefore, hafter]
  cases effect_of_exec hexec with
  | step => exact absurd ((stepTick_keeps_ready hbefore).trans hbefore.symm) hnotSame
  | ack => exact .inl rfl
  | reset => exact .inr rfl
  | fifo k b => exact absurd rfl hnotSame
  | keyOn b => exact absurd (commitKeyOn_finish_ready _) hnotSame
  | keyOff b => exact absurd (commitKeyOff_finish_ready _) hnotSame
  | register hsame => exact absurd hsame.ready hnotSame

/-- Settles O53: flag by flag. -/
theorem flagsHaveOnlyTheirWriters : Obligations.FlagsHaveOnlyTheirWriters := fun _ _ _ v hexec =>
  ⟨keyOn_of_playing_set hexec, writer_of_playing_cleared hexec, step_of_cacheValid_set hexec,
   fun hbefore hafter => writer_of_cacheValid hexec (v := v) (by simp [hbefore, hafter]), step_of_ready_set hexec,
   writer_of_ready_cleared hexec⟩

/-- A STEP that empties a valid cache is the block crossing of its own playing voice (R85, R207). -/
theorem crossing_of_cacheValid_cleared {s : State} {v : Fin voiceCount} (hbefore : (s.voice v).cacheValid = true)
    (hafter : ((stepTick params s).finish.voice v).cacheValid = false) :
    (s.voice v).playing = true ∧ subPosLimit ≤ nextPosition s v := by
  cases hplay : (s.voice v).playing with
  | false =>
    rw [stepTick_voice_idle hplay, hbefore] at hafter
    cases hafter
  | true =>
    refine ⟨rfl, ?_⟩
    rw [State.voice_finish, stepTick_voice, voiceTick_playing params s.mem _ hplay,
      Voice.refill_eq_refilledVoice] at hafter
    obtain ⟨-, hmove⟩ | ⟨-, hout, -⟩ | ⟨-, -, hmove⟩ := Voice.move_cases params s.mem (refilledVoice s v)
    · rw [hmove] at hafter
      cases hafter
    · exact refilledVoice_advanced s v ▸ hout
    · rw [hmove, Voice.applyFlags] at hafter
      cases hafter

/-- Settles O54: only STEP and RESET clear a valid bit, and STEP by a crossing alone. -/
theorem onlyACrossingOrResetEmptiesACache : Obligations.OnlyACrossingOrResetEmptiesACache := by
  intro i s t v hexec hbefore hafter
  obtain rfl | rfl := writer_of_cacheValid hexec (v := v) (by simp [hbefore, hafter])
  · cases hexec
    exact .inr ⟨rfl, crossing_of_cacheValid_cleared hbefore hafter⟩
  · exact .inl rfl

end Sys2Proof.Machine

/-! The invariant of the machine (10_state.md section 7): it holds after RESET, every step keeps each of its clauses, and so
every run from a sound state stays sound until the host issues a reserved command. -/

namespace Sys2Proof.Machine

open Sys2Proof.Config Sys2Proof.Claims

/-- A property that the queue of commands does not enter, and that every instruction keeps, is kept by every step. -/
theorem step_keeps {I : State → Prop} (hqueue : ∀ s rest, I s → I { s with pending := rest })
    (hexec : ∀ i s t, exec i s = .next t → I s → I t) {s t : State} (hstep : step s = .next t) (hs : I s) : I t := by
  obtain ⟨-, rfl⟩ | ⟨c, rest, -, hrun⟩ := step_cases hstep
  · exact hs
  · exact hexec _ _ _ hrun (hqueue s rest hs)

/-- An instruction that completes is a STEP, a RESET, or one of those that write registers, flags or memory only. -/
theorem exec_cases {i : Instr} {s t : State} (hexec : exec i s = .next t) :
    t = (stepTick params s).finish ∨ t = { State.reset with pending := s.pending } ∨ s.SameButRegisters t := by
  by_cases hstep : i = .step
  · subst hstep
    cases hexec
    exact .inl rfl
  · by_cases hreset : i = .reset
    · subst hreset
      rw [exec_reset] at hexec
      cases hexec
      exact .inr (.inl rfl)
    · exact .inr (.inr (exec_sameButRegisters hexec hstep hreset))

/-! ## The state after RESET -/

/-- The buffer holds at least one frame (R7). -/
theorem outCap_pos : 0 < outCap := by
  rw [outCap, Params.outCap]
  omega

/-- The buffer holds whole frames (R7). -/
theorem outCap_even : outCap % 2 = 0 := by
  rw [outCap, Params.outCap]
  omega

/-- The reset state is sound, whatever commands are pending. -/
theorem sound_reset (cs : List Command) : Sound { State.reset with pending := cs } where
  positions v := by
    rw [voice_reset_withPending]
    decide
  writeIndex := ⟨rfl, outCap_pos⟩
  capacity := List.length_replicate
  memory := Memory.wf_nil _
  external := ⟨rfl, rfl⟩

/-- Settles O45: the reset state has no commands pending. -/
theorem resetStateIsSound : Obligations.ResetStateIsSound := sound_reset []

/-! ## The clauses, one by one -/

/-- Every instruction keeps the positions in their blocks: STEP by the tick, a write to a start address by setting 0. -/
theorem exec_keeps_positions (i : Instr) (s t : State) (hexec : exec i s = .next t) (hs : PositionsInBlock s) :
    PositionsInBlock t := by
  intro v
  obtain rfl | rfl | hsame := exec_cases hexec
  · rw [State.voice_finish, stepTick_voice]
    exact voiceTick_subPos_lt params s.mem _ (hs v)
  · exact (sound_reset s.pending).positions v
  · obtain hkept | hzero := hsame.subPos v
    · exact hkept ▸ hs v
    · rw [hzero]
      decide

/-- Settles O46: no clause of the invariant names the queue, and every instruction keeps this one. -/
theorem stepKeepsPositionsInBlock : Obligations.StepKeepsPositionsInBlock := fun _ _ =>
  step_keeps (fun _ _ hs => hs) exec_keeps_positions

/-- Every instruction keeps the write index even and in the buffer: STEP moves it on by a frame, and the buffer holds whole
frames. -/
theorem exec_keeps_writeIndex (i : Instr) (s t : State) (hexec : exec i s = .next t) (hs : WriteIndexInBuffer s) :
    WriteIndexInBuffer t := by
  obtain rfl | rfl | hsame := exec_cases hexec
  · obtain ⟨heven, hlt⟩ := hs
    have hcap := outCap_even
    have hwp : (stepTick params s).finish.wp = if s.wp + 2 = outCap then 0 else s.wp + 2 := stepTick_wp params s
    rw [WriteIndexInBuffer, hwp]
    split <;> omega
  · exact (sound_reset s.pending).writeIndex
  · rwa [WriteIndexInBuffer, hsame.wp]

/-- Every instruction keeps the length of the output buffer. -/
theorem exec_keeps_capacity (i : Instr) (s t : State) (hexec : exec i s = .next t) (hs : BufferHasCapacity s) :
    BufferHasCapacity t := by
  obtain rfl | rfl | hsame := exec_cases hexec
  · exact (stepTick_out_length params s).trans hs
  · exact (sound_reset s.pending).capacity
  · rwa [BufferHasCapacity, hsame.out]

/-- Settles O47: both clauses. -/
theorem stepKeepsWriteIndexInBuffer : Obligations.StepKeepsWriteIndexInBuffer := fun _ _ hstep =>
  ⟨step_keeps (fun _ _ hs => hs) exec_keeps_writeIndex hstep, step_keeps (fun _ _ hs => hs) exec_keeps_capacity hstep⟩

/-- Every instruction keeps the canonical form: a staged byte by the write to memory, RESET by listing nothing. -/
theorem exec_keeps_memory (i : Instr) (s t : State) (hexec : exec i s = .next t) (hs : MemoryCanonical s) :
    MemoryCanonical t := by
  by_cases hchanged : t.mem = s.mem
  · rwa [MemoryCanonical, hchanged]
  · obtain rfl | ⟨k, b, rfl⟩ := onlyFifoWriteAndResetChangeMemory i s t hexec hchanged
    · rw [exec_reset] at hexec
      cases hexec
      exact (sound_reset s.pending).memory
    · rw [exec_wrFifo] at hexec
      cases hexec
      exact memWrite_wf params s.mem _ b hs

/-- Settles O48: the queue is no part of memory, and every instruction keeps the form. -/
theorem stepKeepsMemoryCanonical : Obligations.StepKeepsMemoryCanonical := fun _ _ =>
  step_keeps (fun _ _ hs => hs) exec_keeps_memory

/-- Every instruction but RESET leaves the external-input volume as it is (R49). -/
theorem exec_external {i : Instr} {s t : State} (hexec : exec i s = .next t) (hreset : i ≠ .reset) :
    t.extvolL = s.extvolL ∧ t.extvolR = s.extvolR := by
  by_cases hstep : i = .step
  · subst hstep
    cases hexec
    exact ⟨stepTick_extvolL params s, stepTick_extvolR params s⟩
  · have hsame := exec_sameButRegisters hexec hstep hreset
    exact ⟨hsame.extvolL, hsame.extvolR⟩

/-- Every instruction keeps the external-input volume at its reset value. -/
theorem exec_keeps_external (i : Instr) (s t : State) (hexec : exec i s = .next t) (hs : ExternalVolumeStuck s) :
    ExternalVolumeStuck t := by
  by_cases hreset : i = .reset
  · subst hreset
    rw [exec_reset] at hexec
    cases hexec
    exact (sound_reset s.pending).external
  · obtain ⟨hleft, hright⟩ := exec_external hexec hreset
    rwa [ExternalVolumeStuck, hleft, hright]

/-- Settles O50: the reset value is kept, and a step whose command is no RESET leaves any value as it is. -/
theorem externalVolumeHoldsItsResetValue : Obligations.ExternalVolumeHoldsItsResetValue := by
  intro s t hstep
  refine ⟨step_keeps (fun _ _ hs => hs) exec_keeps_external hstep, fun hnoReset => ?_⟩
  obtain ⟨-, rfl⟩ | ⟨c, rest, hpending, hexec⟩ := step_cases hstep
  · exact ⟨rfl, rfl⟩
  · exact exec_external (s := { s with pending := rest }) hexec fun hreset => hnoReset ⟨c, rest, hpending, hreset⟩

/-! ## Runs -/

/-- Every step keeps a sound state sound. -/
theorem step_keeps_sound {s t : State} (hstep : step s = .next t) (hs : Sound s) : Sound t where
  positions := stepKeepsPositionsInBlock s t hstep hs.positions
  writeIndex := (stepKeepsWriteIndexInBuffer s t hstep).1 hs.writeIndex
  capacity := (stepKeepsWriteIndexInBuffer s t hstep).2 hs.capacity
  memory := stepKeepsMemoryCanonical s t hstep hs.memory
  external := (externalVolumeHoldsItsResetValue s t hstep).1 hs.external

/-- Every step answers a next state or the refusal of a reserved command (R95, R270). -/
theorem step_next_or_reserved (s : State) :
    (∃ t, step s = .next t) ∨ ∃ op, step s = .refused (.reservedCommand op) := by
  cases hpending : s.pending with
  | nil => exact .inl ⟨s, step_of_noPending hpending⟩
  | cons c rest =>
    rw [step_of_pending hpending]
    by_cases hreserved : ∃ op, decodeWord c = .reserved op
    · obtain ⟨op, hop⟩ := hreserved
      exact .inr ⟨op, by rw [hop, exec_reserved]⟩
    · exact .inl (exec_completes (fun op hop => hreserved ⟨op, hop⟩) _)

/-- Settles O51: by induction on the number of steps, over every sound state. -/
theorem runsFromSoundStatesStaySound : Obligations.RunsFromSoundStatesStaySound := by
  intro n
  induction n with
  | zero => exact fun s hs => .inl ⟨s, run_zero s, hs⟩
  | succ n ih =>
    intro s hs
    obtain ⟨u, hu⟩ | ⟨op, hop⟩ := step_next_or_reserved s
    · rw [run_succ_next n hu]
      exact ih u (step_keeps_sound hu hs)
    · exact .inr ⟨op, run_succ_refused n hop⟩

end Sys2Proof.Machine

/-! Canonical memories with the same bytes are the same list (log entry 6): the first listed address is the first one whose
byte is not its initial contents. -/

namespace Sys2Proof.Machine

open Sys2Proof.Config Sys2Proof.Claims

/-- The first listed address reads as its byte. -/
theorem Memory.read_cons_self (init : Nat → Byte) (c : Host.Cell) (m : Memory) :
    Memory.read init (c :: m) c.1 = c.2 :=
  if_pos rfl

/-- Any other address reads as it does in the rest of the list. -/
theorem Memory.read_cons_of_ne (init : Nat → Byte) (c : Host.Cell) (m : Memory) {a : Nat} (h : c.1 ≠ a) :
    Memory.read init (c :: m) a = Memory.read init m a :=
  if_neg h

/-- In a canonical memory the first listed address reads as no other memory does whose addresses are all above it. -/
theorem Memory.read_ne_of_above {init : Nat → Byte} {c : Host.Cell} {m m' : Memory} (hne : c.2 ≠ init c.1)
    (habove : Memory.Above c.1 m') : Memory.read init (c :: m) c.1 ≠ Memory.read init m' c.1 := by
  rwa [Memory.read_cons_self, Memory.read_of_above init m' c.1 habove]

/-- An address below the first of a canonical memory is below all of it. -/
theorem Memory.above_cons {a : Nat} {c : Host.Cell} {m : Memory} (hac : a < c.1) (habove : Memory.Above c.1 m) :
    Memory.Above a (c :: m) :=
  List.forall_mem_cons.2 ⟨hac, fun d hd => hac.trans (habove d hd)⟩

/-- Canonical memories that read alike at every address are equal. -/
theorem Memory.eq_of_read_eq {init : Nat → Byte} {m m' : Memory} (hwf : Memory.wf init m = true)
    (hwf' : Memory.wf init m' = true) (hread : ∀ a, Memory.read init m a = Memory.read init m' a) : m = m' := by
  induction m generalizing m' with
  | nil =>
    cases m' with
    | nil => rfl
    | cons d m' =>
      obtain ⟨⟨-, hd⟩, -, -⟩ := (Memory.wf_cons init d m').1 hwf'
      exact absurd (hread d.1).symm (Memory.read_ne_of_above hd (List.forall_mem_nil _))
  | cons c m ih =>
    obtain ⟨⟨-, hc⟩, habove, hwfm⟩ := (Memory.wf_cons init c m).1 hwf
    cases m' with
    | nil => exact absurd (hread c.1) (Memory.read_ne_of_above hc (List.forall_mem_nil _))
    | cons d m' =>
      obtain ⟨⟨-, hd⟩, habove', hwfm'⟩ := (Memory.wf_cons init d m').1 hwf'
      obtain hlt | heq | hgt := Nat.lt_trichotomy c.1 d.1
      · exact absurd (hread c.1) (Memory.read_ne_of_above hc (Memory.above_cons hlt habove'))
      · have hcell : c = d := by
          refine Prod.ext heq ?_
          rw [← Memory.read_cons_self init c m, ← Memory.read_cons_self init d m', ← heq]
          exact hread c.1
        subst hcell
        have htail (a : Nat) : Memory.read init m a = Memory.read init m' a := by
          by_cases ha : c.1 = a
          · rw [← ha, Memory.read_of_above init m c.1 habove, Memory.read_of_above init m' c.1 habove']
          · rw [← Memory.read_cons_of_ne init c m ha, ← Memory.read_cons_of_ne init c m' ha]
            exact hread a
        rw [ih hwfm hwfm' htail]
      · exact absurd (hread d.1).symm (Memory.read_ne_of_above hd (Memory.above_cons hgt habove))

/-- A canonical memory reads its initial contents from the memory's size on. -/
theorem Memory.read_of_ge {init : Nat → Byte} {m : Memory} (hwf : Memory.wf init m = true) {a : Nat}
    (ha : voiceMemBytes ≤ a) : Memory.read init m a = init a := by
  induction m with
  | nil => rfl
  | cons c m ih =>
    obtain ⟨⟨hc, -⟩, -, hwfm⟩ := (Memory.wf_cons init c m).1 hwf
    rw [Memory.read_cons_of_ne init c m (Nat.ne_of_lt (Nat.lt_of_lt_of_le hc ha))]
    exact ih hwfm

/-- Settles O49: the addresses of the array decide the list, as none is listed beyond them. -/
theorem canonicalMemoryIsItsBytes : Obligations.CanonicalMemoryIsItsBytes := by
  intro s t hs ht hbytes
  refine Memory.eq_of_read_eq hs ht fun a => ?_
  by_cases ha : a < voiceMemBytes
  · have hbyte := hbytes a
    rwa [memoryByte, memoryByte, debugPort, debugPort, memRead, memRead, Nat.mod_eq_of_lt ha] at hbyte
  · rw [Memory.read_of_ge hs (Nat.le_of_not_lt ha), Memory.read_of_ge ht (Nat.le_of_not_lt ha)]

end Sys2Proof.Machine

/-! What is written to a register is read back (R154), said once for a register whose bytes are written one at a time, then
applied to every register with storage. -/

namespace Sys2Proof.Machine

open Sys2Proof.Config Sys2Proof.Claims

/-! ## The bytes of a register after one is replaced -/

/-- A value with one byte replaced is determined. -/
theorem eq_regWriteByte_of_byteReplaced {w : Nat} {old new : BitVec w} {k : Nat} {b : Byte}
    (h : ByteReplaced old new k b) : new = regWriteByte old k b :=
  BitVec.eq_of_getLsbD_eq fun j hj => (h j hj).trans (regWriteByte_getLsbD old k b j hj).symm

/-- The replaced byte is the new one. -/
theorem byteOf_of_byteReplaced_same {w : Nat} {old new : BitVec w} {k : Nat} {b : Byte} (h : ByteReplaced old new k b)
    (hk : 8 * k + 8 ≤ w := by decide) : byteOf new k = b := by
  rw [eq_regWriteByte_of_byteReplaced h, ← regReadByte_eq_byteOf, regReadByte_regWriteByte_same old k b hk]

/-- Every other byte is as it was. -/
theorem byteOf_of_byteReplaced_other {w : Nat} {old new : BitVec w} {k : Nat} {b : Byte} (h : ByteReplaced old new k b)
    (l : Nat) (hkl : k ≠ l := by decide) (hl : 8 * l + 8 ≤ w := by decide) : byteOf new l = byteOf old l := by
  rw [eq_regWriteByte_of_byteReplaced h, ← regReadByte_eq_byteOf, ← regReadByte_eq_byteOf,
    regReadByte_regWriteByte_other old k l b hl hkl]

/-! ## A register written and read byte by byte -/

/-- The READs of a register return its bytes and leave it as it is. -/
def ReadsBytes {w n : Nat} (rd : Fin n → Instr) (get : State → BitVec w) : Prop :=
  ∀ (k : Fin n) (s : State), ∃ t, exec (rd k) s = .next t ∧ t.rdata = some (byteOf (get s) k) ∧ get t = get s

/-- The WRITEs of a register replace its bytes. -/
def WritesBytes {w n : Nat} (wr : Fin n → Byte → Instr) (get : State → BitVec w) : Prop :=
  ∀ (k : Fin n) (b : Byte) (s : State), ∃ t, exec (wr k b) s = .next t ∧ ByteReplaced (get s) (get t) k b

/-- A register of the map that the returned byte is no part of. -/
theorem readsBytes_of_readsRegister {w n base : Nat} {rd : Fin n → Instr} {get : State → BitVec w}
    (h : ReadsRegister base rd get) (hget : ∀ (s : State) (b : Option Byte), get { s with rdata := b } = get s := by exact fun _ _ => rfl) :
    ReadsBytes rd get := fun k s =>
  ⟨_, (h k).2 s, rfl, hget s _⟩

/-- A global register of the map. -/
theorem writesBytes_of_writesRegister {w n base : Nat} {wr : Fin n → Byte → Instr} {get : State → BitVec w}
    {put : State → BitVec w → State} (h : WritesRegister base wr get put)
    (hget : ∀ s r, get { put s r with rdata := none } = r := by exact fun _ _ => rfl) : WritesBytes wr get := fun k b s =>
  have ⟨r, hbyte, hexec⟩ := (h k b).2 s
  ⟨_, hexec, (hget s r).symm ▸ hbyte⟩

/-- A voice register of the map. -/
theorem writesBytes_of_writesVoiceRegister {w n base : Nat} {v : Fin voiceCount} {wr : Fin n → Byte → Instr}
    {get : Voice → BitVec w} {put : Voice → BitVec w → Voice} (h : WritesVoiceRegister base v wr get put)
    (hget : ∀ x r, get (put x r) = r := by exact fun _ _ => rfl) : WritesBytes wr fun s => get (s.voice v) := by
  intro k b s
  obtain ⟨r, hbyte, hexec⟩ := (h k b).2 s
  have hvoice : State.voice { s with voices := s.voices.set v (put (s.voice v) r), rdata := none } v =
      put (s.voice v) r := State.voice_setVoice_self s v _
  refine ⟨_, hexec, ?_⟩
  beta_reduce
  rwa [hvoice, hget]

/-- A register of two bytes reads back what was written. -/
theorem roundTrips16 {get : State → Reg16} {wr : Fin 2 → Byte → Instr} {rd : Fin 2 → Instr}
    (hwrite : WritesBytes wr get) (hread : ReadsBytes rd get) : RoundTrips16 wr rd := by
  intro s b0 b1
  obtain ⟨t1, h1, hbyte0⟩ := hwrite 0 b0 s
  obtain ⟨t2, h2, hbyte1⟩ := hwrite 1 b1 t1
  obtain ⟨t3, h3, hdata0, hkept0⟩ := hread 0 t2
  obtain ⟨t4, h4, hdata1, -⟩ := hread 1 t3
  refine ⟨t1, t2, t3, t4, h1, h2, h3, hdata0.trans (congrArg some ?_), h4, hdata1.trans (congrArg some ?_)⟩
  · exact (byteOf_of_byteReplaced_other hbyte1 0).trans (byteOf_of_byteReplaced_same hbyte0)
  · rw [hkept0]
    exact byteOf_of_byteReplaced_same hbyte1

/-- A register of four bytes reads back what was written. -/
theorem roundTrips32 {get : State → Reg32} {wr : Fin 4 → Byte → Instr} {rd : Fin 4 → Instr}
    (hwrite : WritesBytes wr get) (hread : ReadsBytes rd get) : RoundTrips32 wr rd := by
  intro s b0 b1 b2 b3
  obtain ⟨t1, h1, hbyte0⟩ := hwrite 0 b0 s
  obtain ⟨t2, h2, hbyte1⟩ := hwrite 1 b1 t1
  obtain ⟨t3, h3, hbyte2⟩ := hwrite 2 b2 t2
  obtain ⟨t4, h4, hbyte3⟩ := hwrite 3 b3 t3
  obtain ⟨t5, h5, hdata0, hkept0⟩ := hread 0 t4
  obtain ⟨t6, h6, hdata1, hkept1⟩ := hread 1 t5
  obtain ⟨t7, h7, hdata2, hkept2⟩ := hread 2 t6
  obtain ⟨t8, h8, hdata3, -⟩ := hread 3 t7
  refine ⟨t1, t2, t3, t4, t5, t6, t7, t8, h1, h2, h3, h4, h5, hdata0.trans (congrArg some ?byte0), h6,
    hdata1.trans (congrArg some ?byte1), h7, hdata2.trans (congrArg some ?byte2), h8,
    hdata3.trans (congrArg some ?byte3)⟩
  case byte0 =>
    exact (byteOf_of_byteReplaced_other hbyte3 0).trans <| (byteOf_of_byteReplaced_other hbyte2 0).trans <|
      (byteOf_of_byteReplaced_other hbyte1 0).trans (byteOf_of_byteReplaced_same hbyte0)
  case byte1 =>
    rw [hkept0]
    exact (byteOf_of_byteReplaced_other hbyte3 1).trans <| (byteOf_of_byteReplaced_other hbyte2 1).trans <|
      byteOf_of_byteReplaced_same hbyte1
  case byte2 =>
    rw [hkept1, hkept0]
    exact (byteOf_of_byteReplaced_other hbyte3 2).trans (byteOf_of_byteReplaced_same hbyte2)
  case byte3 =>
    rw [hkept2, hkept1, hkept0]
    exact byteOf_of_byteReplaced_same hbyte3

/-! ## The key masks and the status word -/

/-- The bytes of the key-on mask, the last of which commits without clearing the mask (R163). -/
theorem writesBytes_kon : WritesBytes writeKon (·.kon) := by
  intro k b s
  by_cases hk : k.val < 3
  · rw [writeKon, dif_pos hk]
    exact (writesBytes_of_writesRegister keyMaskLowBytesOnlyStore.1) ⟨k.val, hk⟩ b s
  · obtain rfl : k = 3 := by omega
    obtain ⟨-, hcommit⟩ := keyOnCommitStartsTheSelectedVoices b
    obtain ⟨r, t, hbyte, hexec, hframe, -⟩ := hcommit s
    exact ⟨t, hexec, by rwa [hframe]⟩

/-- The bytes of the key-off mask, the last of which commits without clearing the mask (R166). -/
theorem writesBytes_koff : WritesBytes writeKoff (·.koff) := by
  intro k b s
  by_cases hk : k.val < 3
  · rw [writeKoff, dif_pos hk]
    exact (writesBytes_of_writesRegister keyMaskLowBytesOnlyStore.2) ⟨k.val, hk⟩ b s
  · obtain rfl : k = 3 := by omega
    obtain ⟨-, hcommit⟩ := keyOffCommitStopsTheSelectedVoices b
    obtain ⟨r, t, hbyte, hexec, hframe, -⟩ := hcommit s
    exact ⟨t, hexec, by rwa [hframe]⟩

/-- A byte of the status word read right after it was written: above bit 5 it is the byte written (R194, R195). -/
theorem status_readBack (k : Fin 2) (b : Byte) (s : State) :
    ∃ t u c, exec (.wrStat k b) s = .next t ∧ exec (.rdStat k) t = .next u ∧ u.rdata = some c ∧
      ∀ j, j < 8 → 6 ≤ 8 * k.val + j → c.getLsbD j = b.getLsbD j := by
  refine ⟨_, _, _, rfl, exec_rdStat k _, rfl, fun j hj hhigh => ?_⟩
  have hbit : 8 * k.val + j < 16 := by omega
  rw [← regReadByte_eq_byteOf, regReadByte_getLsbD, mirrored_getLsbD _ _ hbit, if_neg (by omega)]
  have hstat := regWriteByte_getLsbD s.stat k.val b (8 * k.val + j) hbit
  rw [if_pos (by omega), Nat.add_sub_cancel_left] at hstat
  rw [decide_eq_true hj, Bool.true_and]
  exact hstat

/-- The high byte of the status word is no mirror (R194). -/
theorem statusHighByte_readBack (s : State) (b : Byte) :
    ∃ t u, exec (.wrStat 1 b) s = .next t ∧ exec (.rdStat 1) t = .next u ∧ u.rdata = some b := by
  obtain ⟨t, u, c, hwrite, hread, hdata, hbits⟩ := status_readBack 1 b s
  have hbyte : c = b := BitVec.eq_of_getLsbD_eq fun j hj => hbits j hj (Nat.le_trans (by decide) (Nat.le_add_right 8 j))
  exact ⟨t, u, hwrite, hread, hbyte ▸ hdata⟩

/-- Of the low byte of the status word bits 6 and 7 are no mirror (R194). -/
theorem statusLowByte_readBack (s : State) (b : Byte) :
    ∃ t u c, exec (.wrStat 0 b) s = .next t ∧ exec (.rdStat 0) t = .next u ∧ u.rdata = some c ∧
      c.getLsbD 6 = b.getLsbD 6 ∧ c.getLsbD 7 = b.getLsbD 7 := by
  obtain ⟨t, u, c, hwrite, hread, hdata, hbits⟩ := status_readBack 0 b s
  exact ⟨t, u, c, hwrite, hread, hdata, hbits 6 (by decide) (by decide), hbits 7 (by decide) (by decide)⟩

/-! ## Every register with storage -/

/-- The voice registers read back (R154). -/
theorem voiceRegisters_roundTrip (v : Fin voiceCount) :
    RoundTrips16 (.wrVoll v) (.rdVoll v) ∧ RoundTrips16 (.wrVolr v) (.rdVolr v) ∧
    RoundTrips16 (.wrRate v) (.rdRate v) ∧ RoundTrips16 (.wrStart v) (.rdStart v) ∧
    RoundTrips32 (.wrAdsrcfg v) (.rdAdsrcfg v) ∧ RoundTrips16 (.wrAdsrvol v) (.rdAdsrvol v) ∧
    RoundTrips16 (.wrRepeat v) (.rdRepeat v) :=
  have ⟨rdVoll, rdVolr, rdRate, rdStart, rdAdsrcfg, rdAdsrvol, rdRepeat⟩ := voiceRegisterReads v
  have ⟨wrVoll, wrVolr, wrRate, wrAdsrcfg, wrAdsrvol, wrRepeat⟩ := voiceRegisterWrites v
  ⟨roundTrips16 (writesBytes_of_writesVoiceRegister wrVoll) (readsBytes_of_readsRegister rdVoll),
   roundTrips16 (writesBytes_of_writesVoiceRegister wrVolr) (readsBytes_of_readsRegister rdVolr),
   roundTrips16 (writesBytes_of_writesVoiceRegister wrRate) (readsBytes_of_readsRegister rdRate),
   roundTrips16 (writesBytes_of_writesVoiceRegister (startWriteResetsPosition v)) (readsBytes_of_readsRegister rdStart),
   roundTrips32 (writesBytes_of_writesVoiceRegister wrAdsrcfg) (readsBytes_of_readsRegister rdAdsrcfg),
   roundTrips16 (writesBytes_of_writesVoiceRegister wrAdsrvol) (readsBytes_of_readsRegister rdAdsrvol),
   roundTrips16 (writesBytes_of_writesVoiceRegister wrRepeat) (readsBytes_of_readsRegister rdRepeat)⟩

/-- Settles O15: the registers of the map, the key masks, and the bits of the status word that are no mirror. -/
theorem registersRoundTrip : Obligations.RegistersRoundTrip :=
  have ⟨rdMvoll, rdMvolr, rdRvoll, rdRvolr, rdChrvb, rdCdvoll, rdCdvolr, rdIrqa, rdStga, rdCtrl, rdXfer, rdKon,
    rdKoff⟩ := globalRegisterReads
  have ⟨wrMvoll, wrMvolr, wrRvoll, wrRvolr, wrChrvb, wrCdvoll, wrCdvolr, wrIrqa, wrCtrl, wrXfer, _⟩ :=
    globalRegisterWrites
  ⟨voiceRegisters_roundTrip,
   roundTrips16 (writesBytes_of_writesRegister wrMvoll) (readsBytes_of_readsRegister rdMvoll),
   roundTrips16 (writesBytes_of_writesRegister wrMvolr) (readsBytes_of_readsRegister rdMvolr),
   roundTrips16 (writesBytes_of_writesRegister wrRvoll) (readsBytes_of_readsRegister rdRvoll),
   roundTrips16 (writesBytes_of_writesRegister wrRvolr) (readsBytes_of_readsRegister rdRvolr),
   roundTrips32 (writesBytes_of_writesRegister wrChrvb) (readsBytes_of_readsRegister rdChrvb),
   roundTrips16 (writesBytes_of_writesRegister wrCdvoll) (readsBytes_of_readsRegister rdCdvoll),
   roundTrips16 (writesBytes_of_writesRegister wrCdvolr) (readsBytes_of_readsRegister rdCdvolr),
   roundTrips16 (writesBytes_of_writesRegister wrIrqa) (readsBytes_of_readsRegister rdIrqa),
   roundTrips16 (writesBytes_of_writesRegister writesRegister_stga) (readsBytes_of_readsRegister rdStga),
   roundTrips16 (writesBytes_of_writesRegister wrCtrl) (readsBytes_of_readsRegister rdCtrl),
   roundTrips16 (writesBytes_of_writesRegister wrXfer) (readsBytes_of_readsRegister rdXfer),
   roundTrips32 writesBytes_kon (readsBytes_of_readsRegister rdKon),
   roundTrips32 writesBytes_koff (readsBytes_of_readsRegister rdKoff),
   statusHighByte_readBack, statusLowByte_readBack⟩

end Sys2Proof.Machine

/-! STEP as one voice sees it, further: what of the voice and of the state it leaves alone, what it depends on, and when it
decodes a block (R200, R201, R203). -/

namespace Sys2Proof.Machine

open Sys2Proof.Config Sys2Proof.Claims Sys2Proof.Laws

/-- Settles O25: the record STEP leaves, and the registers of a voice that its tick leaves. -/
theorem stepChangesOnlyVoicesAndOutput : Obligations.StepChangesOnlyVoicesAndOutput := by
  intro a d
  have hword : decodeWord (word 2 a.toNat d.toNat) = .step :=
    (congrArg decodeWord (word_eq_commandWord 2 a d)).trans (decodeWord_step a d)
  refine ⟨hword, fun s => ⟨_, exec_step s, ?frame, fun v => ?voice⟩⟩
  case frame =>
    rw [stepTick_eq]
    rfl
  case voice =>
    rw [State.voice_finish, stepTick_voice]
    exact voiceTick_hostRegisters params s.mem (s.voice v)

/-- A move keeps the cached samples and the history: a crossing empties the cache by its valid bit alone (R206 to R210). -/
theorem Voice.move_cache_hist (P : Params) (m : Memory) (x : Voice) :
    (x.move P m).cache = x.cache ∧ (x.move P m).hist = x.hist := by
  obtain ⟨-, hmove⟩ | ⟨-, -, hmove⟩ | ⟨-, -, hmove⟩ := Voice.move_cases P m x
  · rw [hmove]
    exact ⟨rfl, rfl⟩
  · rw [hmove]
    exact ⟨rfl, rfl⟩
  · rw [hmove, Voice.applyFlags]
    exact ⟨rfl, rfl⟩

/-- Settles O27: the refill decides the samples and the history, and no move changes them. -/
theorem stepRefillsOnlyAnEmptyCache : Obligations.StepRefillsOnlyAnEmptyCache := by
  intro s v hplay
  obtain ⟨t, hstep, hvoice⟩ := exec_step_voice_playing s v hplay
  obtain ⟨hcache, hhist⟩ := Voice.move_cache_hist params s.mem (refilledVoice s v)
  refine ⟨t, hstep, fun hempty => ?_, fun hvalid => ?_⟩
  · rw [hvoice, hcache, hhist, refilledVoice, playedCache, playedHist, hempty]
    rfl
  · rw [hvoice, hcache, hhist, refilledVoice, playedCache, playedHist, if_pos hvalid, if_pos hvalid]
    exact ⟨rfl, rfl⟩

/-- A tick reads memory by its bytes only (R203, R208). -/
theorem voiceTick_congr {P : Params} {m m' : Memory} (hbytes : ∀ a, memRead P m a = memRead P m' a) (x : Voice) :
    voiceTick P m x = voiceTick P m' x := by
  have hblock (u : Reg16) : readBlock P m u = readBlock P m' u := congrArg Vector.ofFn (funext fun _ => hbytes _)
  have hflag (u : Reg16) : flagByte P m u = flagByte P m' u := hbytes _
  have hrefill : x.refill P m = x.refill P m' := by rw [Voice.refill, Voice.refill, hblock]
  have hmove : Voice.move P m = Voice.move P m' := by
    funext y
    rw [Voice.move, Voice.move, hflag]
  rw [voiceTick, voiceTick, hrefill, hmove]

/-- Settles O31: the voice after STEP is its own tick, and a tick reads the bytes of memory and its own record. -/
theorem voicesDoNotInfluenceEachOther : Obligations.VoicesDoNotInfluenceEachOther := by
  intro s s' v hbytes hsame
  obtain ⟨t, hstep, hvoice⟩ := exec_step_voice s v
  obtain ⟨t', hstep', hvoice'⟩ := exec_step_voice s' v
  refine ⟨t, t', hstep, hstep', ?_⟩
  rw [hvoice, hvoice', hsame, voiceTick_congr hbytes]

/-- Settles O34: byte 3 of the mask selects no voice, so the commit keys the voice on as the mask stood, and the next tick
finds the cache it had before. -/
theorem rekeyKeepsAStaleCache : Obligations.RekeyKeepsAStaleCache := by
  intro s b v hselected hvalid
  obtain ⟨-, hcommit⟩ := keyOnCommitStartsTheSelectedVoices b
  obtain ⟨r, t, hbyte, hexec, -, hvoices⟩ := hcommit s
  have hselects : r.getLsbD v = true := by
    have hv : v.val < 24 := v.isLt
    rw [hbyte v (by omega), if_neg (by omega)]
    exact hselected
  have hkeyed : t.voice v = keyedOn (s.voice v) := by rw [hvoices, if_pos hselects]
  obtain ⟨u, hstep, -, hkept⟩ := stepRefillsOnlyAnEmptyCache t v (by rw [hkeyed, keyedOn])
  refine ⟨t, u, hexec, hstep, ?_⟩
  rw [hkeyed] at hkept ⊢
  exact ⟨rfl, rfl, rfl, hkept hvalid⟩

end Sys2Proof.Machine

/-! The frame STEP appends, further: its range in every state, and the silent frame (R244, R247). -/

namespace Sys2Proof.Machine

open Sys2Proof.Config Sys2Proof.Claims

/-- A frame value lies in -32767 to 32767, so its sample reads back as the same integer (R244, R245). -/
theorem frameSample_bounds (m : Int) :
    -32767 ≤ (BitVec.ofInt 16 (quantise m)).toInt ∧ (BitVec.ofInt 16 (quantise m)).toInt ≤ 32767 := by
  have hvalue : quantise m = outputValue m 1 := by rw [← quantise_mul, mul_one]
  obtain ⟨hlow, hhigh⟩ := outputValue_bounds m 1
  rw [hvalue, BitVec.toInt_ofInt_eq_self (by decide) (by omega) (by omega)]
  exact ⟨hlow, hhigh⟩

/-- With the write index in the buffer both slots of the frame are (R57). -/
theorem frameSlots_inBuffer {s : State} (hindex : WriteIndexInBuffer s) (hcap : BufferHasCapacity s) :
    s.wp + 1 < s.out.length := by
  obtain ⟨heven, hlt⟩ := hindex
  have hwhole := outCap_even
  rw [hcap]
  omega

/-- Settles O36: both slots of the frame are in the buffer, and hold the values of the mix. -/
theorem frameValuesStayInRange : Obligations.FrameValuesStayInRange := by
  intro s hindex hcap
  have hslots := frameSlots_inBuffer hindex hcap
  obtain ⟨hleftLow, hleftHigh⟩ := frameSample_bounds (mixLeft params (tickVoices params s).1 (tickVoices params s).2)
  refine ⟨_, _, _, exec_step s, ?left, ?right, hleftLow, hleftHigh,
    frameSample_bounds (mixRight params (tickVoices params s).1 (tickVoices params s).2)⟩
  case left =>
    rw [State.finish_out, stepTick_out, List.getElem?_set_ne (by omega), List.getElem?_set_self (by omega)]
  case right =>
    rw [State.finish_out, stepTick_out, List.getElem?_set_self (by rw [List.length_set]; exact hslots)]

/-! ## The silent frame -/

/-- The gain of a volume register that holds 0 (R241). -/
theorem volumeGain_zero : params.volumeGain 0 = 0 := by decide

/-- A voice at volume 0 adds nothing (R247). -/
theorem contribution_zeroVolume (e : Emission) : contribution params e 0 = 0 := by
  rw [contribution, volumeGain_zero, mul_zero, ite_self]

/-- A voice that is Idle or at volume 0 adds nothing to the mix (R202, R247). -/
theorem contribution_eq_zero {s : State} {v : Fin voiceCount} {vol : Reg16}
    (hsilent : (s.voice v).playing = false ∨ vol = 0) :
    contribution params (voiceTick params s.mem (s.voice v)).1 vol = 0 := by
  obtain hidle | rfl := hsilent
  · rw [voiceTick_idle params s.mem _ hidle, contribution_silent]
  · exact contribution_zeroVolume _

/-- An accumulator over silent voices is 0, for a volume register that a tick leaves alone (R247). -/
theorem sum_contributions_eq_zero {s : State} {vol : Voice → Reg16}
    (hvol : ∀ x, vol (voiceTick params s.mem x).2 = vol x)
    (hsilent : ∀ v : Fin voiceCount, (s.voice v).playing = false ∨ vol (s.voice v) = 0) :
    (voiceOrder.map fun v =>
      contribution params ((tickVoices params s).1.get v) (vol ((tickVoices params s).2.voice v))).sum = 0 := by
  refine List.sum_eq_zero fun c hc => ?_
  obtain ⟨v, -, rfl⟩ := List.mem_map.1 hc
  rw [tickVoices_emission, tickVoices_voice, hvol, contribution_eq_zero (hsilent v)]

/-- The left value of a silent frame. -/
theorem mixLeft_eq_zero {s : State}
    (hsilent : (∀ v : Fin voiceCount, (s.voice v).playing = false ∨ (s.voice v).volL = 0) ∨ s.mvolL = 0) :
    mixLeft params (tickVoices params s).1 (tickVoices params s).2 = 0 := by
  rw [mixLeft, tickVoices_mvolL]
  obtain hvoices | hmain := hsilent
  · rw [accLeft, sum_contributions_eq_zero (vol := (·.volL)) (voiceTick_volL params s.mem) hvoices, zero_mul]
  · rw [hmain, volumeGain_zero, mul_zero]

/-- The right value of a silent frame. -/
theorem mixRight_eq_zero {s : State}
    (hsilent : (∀ v : Fin voiceCount, (s.voice v).playing = false ∨ (s.voice v).volR = 0) ∨ s.mvolR = 0) :
    mixRight params (tickVoices params s).1 (tickVoices params s).2 = 0 := by
  rw [mixRight, tickVoices_mvolR]
  obtain hvoices | hmain := hsilent
  · rw [accRight, sum_contributions_eq_zero (vol := (·.volR)) (voiceTick_volR params s.mem) hvoices, zero_mul]
  · rw [hmain, volumeGain_zero, mul_zero]

/-- Settles O38: both values of the mix are 0, and the frame is appended as any other. -/
theorem silentFrameIsStillAppended : Obligations.SilentFrameIsStillAppended := by
  intro s _ _ hsilent
  have hleft := mixLeft_eq_zero (s := s) (hsilent.imp (fun h v => (h v).imp_right And.left) And.left)
  have hright := mixRight_eq_zero (s := s) (hsilent.imp (fun h v => (h v).imp_right And.right) And.right)
  refine ⟨_, exec_step s, ?frame, (State.finish_wp _).trans (stepTick_wp params s)⟩
  case frame =>
    rw [State.finish_out, stepTick_out, hleft, hright, quantise_zero]
    rfl

end Sys2Proof.Machine

/-! Running a list of commands (R101): the queue does not enter what a command does, so the commands run one after another,
each on what the one before it left. -/

namespace Sys2Proof.Machine

open Sys2Proof.Config Sys2Proof.Claims Sys2Proof.Laws

/-! ## The queue -/

/-- The state with another queue of issued commands (log entry 1). -/
def State.withPending (s : State) (cs : List Command) : State := { s with pending := cs }

theorem finish_withPending (s : State) (cs : List Command) :
    (s.withPending cs).finish = s.finish.withPending cs := rfl

theorem commitKeyOn_withPending (s : State) (cs : List Command) :
    commitKeyOn (s.withPending cs) = (commitKeyOn s).withPending cs :=
  List.foldl_hom (fun t : State => t.withPending cs) fun t v =>
    (apply_ite (fun u : State => u.withPending cs) (selects t.kon v = true) (t.modifyVoice v Voice.keyOn) t).symm

theorem commitKeyOff_withPending (s : State) (cs : List Command) :
    commitKeyOff (s.withPending cs) = (commitKeyOff s).withPending cs :=
  List.foldl_hom (fun t : State => t.withPending cs) fun t v =>
    (apply_ite (fun u : State => u.withPending cs) (selects t.koff v = true) (t.modifyVoice v Voice.keyOff) t).symm

theorem foldl_tickOne_withPending (P : Params) (l : List (Fin voiceCount)) (es : Emissions) (s : State)
    (cs : List Command) :
    l.foldl (tickOne P) (es, s.withPending cs) =
      ((l.foldl (tickOne P) (es, s)).1, (l.foldl (tickOne P) (es, s)).2.withPending cs) := by
  induction l generalizing es s with
  | nil => rfl
  | cons v l ih => exact ih (tickOne P (es, s) v).1 (tickOne P (es, s) v).2

theorem tickVoices_withPending (P : Params) (s : State) (cs : List Command) :
    tickVoices P (s.withPending cs) = ((tickVoices P s).1, (tickVoices P s).2.withPending cs) :=
  foldl_tickOne_withPending P voiceOrder _ s cs

theorem mix_withPending (P : Params) (es : Emissions) (s : State) (cs : List Command) :
    mix P es (s.withPending cs) = (mix P es s).withPending cs := by
  have hleft : mixLeft P es (s.withPending cs) = mixLeft P es s := rfl
  have hright : mixRight P es (s.withPending cs) = mixRight P es s := rfl
  rw [mix_eq, mix_eq, hleft, hright]
  rfl

theorem stepTick_withPending (P : Params) (s : State) (cs : List Command) :
    stepTick P (s.withPending cs) = (stepTick P s).withPending cs := by
  unfold stepTick
  rw [tickVoices_withPending]
  exact mix_withPending P _ _ cs

/-- No instruction looks at the queue or changes it. -/
theorem exec_withPending {i : Instr} {s t : State} (hexec : exec i s = .next t) (cs : List Command) :
    exec i (s.withPending cs) = .next (t.withPending cs) := by
  cases i with
  | step =>
    cases hexec
    rw [exec_step, stepTick_withPending, finish_withPending]
  | wrKonCommit b =>
    cases hexec
    have hmask : { s.withPending cs with kon := regWriteByte (s.withPending cs).kon 3 b } =
      State.withPending { s with kon := regWriteByte s.kon 3 b } cs := rfl
    rw [exec_wrKonCommit, hmask, commitKeyOn_withPending, finish_withPending]
  | wrKoffCommit b =>
    cases hexec
    have hmask : { s.withPending cs with koff := regWriteByte (s.withPending cs).koff 3 b } =
      State.withPending { s with koff := regWriteByte s.koff 3 b } cs := rfl
    rw [exec_wrKoffCommit, hmask, commitKeyOff_withPending, finish_withPending]
  | reserved op => cases hexec
  | _ =>
    cases hexec
    rfl

/-! ## Lists of commands -/

/-- With no command to run the state is as it was, with none issued. -/
theorem runsTo_nil (s : State) : RunsTo s [] (s.withPending []) := rfl

/-- The first command of a list runs on the state, and the rest on what it leaves. -/
theorem runsTo_cons {c : Command} {cs : List Command} {s u t : State} (hexec : exec (decodeWord c) s = .next u)
    (hrest : RunsTo u cs t) : RunsTo s (c :: cs) t := by
  have hstep : step (s.withPending (c :: cs)) = .next (u.withPending cs) :=
    (step_of_pending rfl).trans (exec_withPending hexec cs)
  exact (run_succ_next cs.length hstep).trans hrest

/-- The word of a `wr` line is the WRITE of its byte to what its address names (R100). -/
theorem decodeWord_asmWr {a : PortAddr} {p : Port} (hport : decodePort a = p) (b : Byte) :
    decodeWord (asmWr a b) = p.writeInstr b := by
  rw [asmWr, decodeWord_write, hport]

/-- The word of a `step` line is STEP (R100). -/
theorem decodeWord_asmStep : decodeWord asmStep = .step := decodeWord_step 0 0

/-- A list that begins with a `wr` line: the WRITE to what its address names runs first. -/
theorem runsTo_asmWr {a : PortAddr} {p : Port} {b : Byte} {cs : List Command} {s u t : State}
    (hport : decodePort a = p) (hexec : exec (p.writeInstr b) s = .next u) (hrest : RunsTo u cs t) :
    RunsTo s (asmWr a b :: cs) t :=
  runsTo_cons (by rw [decodeWord_asmWr hport, hexec]) hrest

/-! ## Registers written whole -/

/-- A byte taken from a value and written at its own place: those bits are the value's, the others are kept (R101, R121). -/
theorem regWriteByte_extract_getLsbD {w : Nat} (r x : BitVec w) (k : Nat) {j : Nat} (hj : j < w) :
    (regWriteByte r k (x.extractLsb' (8 * k) 8)).getLsbD j =
      if 8 * k ≤ j ∧ j < 8 * k + 8 then x.getLsbD j else r.getLsbD j := by
  rw [regWriteByte_getLsbD r k _ j hj]
  split
  · next hin =>
    have hlow : j - 8 * k < 8 := by omega
    have hbit : 8 * k + (j - 8 * k) = j := by omega
    rw [BitVec.getLsbD_extractLsb', decide_eq_true hlow, hbit, Bool.true_and]
  · rfl

/-- Both bytes written, a 16-bit register holds the value they were taken from (R101). -/
theorem regWriteBytes16 (r x : Reg16) :
    regWriteByte (regWriteByte r 0 (x.extractLsb' 0 8)) 1 (x.extractLsb' 8 8) = x := by
  refine BitVec.eq_of_getLsbD_eq fun j hj => ?_
  rw [regWriteByte_extract_getLsbD _ x 1 hj, regWriteByte_extract_getLsbD r x 0 hj]
  split
  · rfl
  · exact if_pos (by omega)

/-- All four bytes written, a 32-bit register holds the value they were taken from (R101). -/
theorem regWriteBytes32 (r x : Reg32) :
    regWriteByte (regWriteByte (regWriteByte (regWriteByte r 0 (x.extractLsb' 0 8)) 1 (x.extractLsb' 8 8)) 2
      (x.extractLsb' 16 8)) 3 (x.extractLsb' 24 8) = x := by
  refine BitVec.eq_of_getLsbD_eq fun j hj => ?_
  rw [regWriteByte_extract_getLsbD _ x 3 hj, regWriteByte_extract_getLsbD _ x 2 hj,
    regWriteByte_extract_getLsbD _ x 1 hj, regWriteByte_extract_getLsbD r x 0 hj]
  split
  · rfl
  · split
    · rfl
    · split
      · rfl
      · exact if_pos (by omega)

/-! ## The pseudo-instruction `kon` -/

/-- The four writes of `kon M` come to the commit of the mask M (R101, R163). -/
theorem runsTo_kon (m : Reg32) (s : State) :
    RunsTo s (assemble (.kon m)) ((commitKeyOn { s with kon := m, rdata := none }).finish.withPending []) := by
  have hcommit : exec (.wrKonCommit (m.extractLsb' 24 8))
      { s with
        kon := regWriteByte (regWriteByte (regWriteByte s.kon 0 (m.extractLsb' 0 8)) 1 (m.extractLsb' 8 8)) 2
          (m.extractLsb' 16 8)
        rdata := none } = .next (commitKeyOn { s with kon := m, rdata := none }).finish := by
    rw [exec_wrKonCommit, regWriteBytes32]
  have hport0 : decodePort 0x1D88 = .kon 0 := decodePort_kon 0
  have hport1 : decodePort (0x1D88 + 1) = .kon 1 := decodePort_kon 1
  have hport2 : decodePort (0x1D88 + 2) = .kon 2 := decodePort_kon 2
  have hport3 : decodePort (0x1D88 + 3) = .konHigh := decodePort_konHigh
  exact runsTo_asmWr hport0 rfl <| runsTo_asmWr hport1 rfl <| runsTo_asmWr hport2 rfl <|
    runsTo_asmWr hport3 hcommit (runsTo_nil _)

/-- Settles O19: what the commit of the mask M leaves, with no command pending. -/
theorem konPseudoStartsExactlyItsSet : Obligations.KonPseudoStartsExactlyItsSet := by
  intro m s
  refine ⟨_, runsTo_kon m s, ?frame, fun v => ?voice⟩
  case frame =>
    exact congrArg (State.withPending · [])
      (commitKeyOn_sameButVoices { s with kon := m, rdata := none }).finish_eq
  case voice => exact commitKeyOn_finish_voice { s with rdata := none } m v

/-! ## The pseudo-instruction `load` -/

/-- The first two commands of `load` put the staging address and the cursor at its unit (R101, R184). -/
theorem runsTo_stga {u : Reg16} {s t : State} {cs : List Command}
    (hrest : RunsTo (reloadCursor { s with stga := u }).finish cs t) : RunsTo s (asmWr16 0x1DA6 u ++ cs) t := by
  have hsecond : exec (.wrStga 1 (u.extractLsb' 8 8))
      (reloadCursor { s with stga := regWriteByte s.stga 0 (u.extractLsb' 0 8) }).finish =
        .next (reloadCursor { s with stga := u }).finish :=
    congrArg (fun r => Host.Outcome.next (reloadCursor { s with stga := r }).finish) (regWriteBytes16 s.stga u)
  have hport0 : decodePort 0x1DA6 = .stga 0 := decodePort_stga 0
  have hport1 : decodePort (0x1DA6 + 1) = .stga 1 := decodePort_stga 1
  exact runsTo_asmWr hport0 rfl <| runsTo_asmWr hport1 hsecond hrest

/-- What a run of FIFO writes leaves: the bytes from the old cursor on, the cursor after them, and nothing else changed. -/
structure Staged (s : State) (bytes : List Byte) (t : State) : Prop where
  frame : t = { s with scur := t.scur, mem := t.mem, rdata := none, pending := [] }
  cursor : t.scur.toNat = (s.scur.toNat + bytes.length) % voiceMemBytes
  stored : ∀ i, i < bytes.length → memoryByte t (s.scur.toNat + i) = bytes.getD i 0
  kept : ∀ a, (∀ i, i < bytes.length → a % voiceMemBytes ≠ (s.scur.toNat + i) % voiceMemBytes) →
    memoryByte t a = memoryByte s a

/-- A byte of voice memory is the same at an address and at any that agrees with it modulo the memory's size (R11). -/
theorem memoryByte_congr (s : State) {a a' : Nat} (h : a % voiceMemBytes = a' % voiceMemBytes) :
    memoryByte s a = memoryByte s a' := by
  rw [memoryByte, memoryByte, debugPort, debugPort, ← memRead_mod, h, memRead_mod]

/-- A staged byte, read in the state it leaves (R186). -/
theorem memoryByte_stageByte {s : State} (hwf : MemoryCanonical s) (b : Byte) (a : Nat) :
    memoryByte (stageByte params b s).finish a = if a % voiceMemBytes = s.scur.toNat then b else memoryByte s a :=
  memRead_stageByte params b s hwf a

/-- The addresses from the next one on are those from this one on, but for the first (R11, R186). -/
theorem nextAddress_add (c i : Nat) : ((c + 1) % voiceMemBytes + i) % voiceMemBytes = (c + (i + 1)) % voiceMemBytes := by
  rw [Nat.mod_add_mod, Nat.add_assoc, Nat.add_comm 1]

/-- Fewer steps on than memory has addresses do not come back to an address. -/
theorem address_ne_of_later (c : Nat) {i : Nat} (hi : i + 1 < voiceMemBytes) :
    c % voiceMemBytes ≠ (c + (i + 1)) % voiceMemBytes := by
  simp only [voiceMemBytes] at hi ⊢
  omega

/-- One more byte in front: it is stored at the cursor, and a run of fewer bytes than memory has addresses does not come back
to it. -/
theorem Staged.cons {s t : State} {b : Byte} {bytes : List Byte} (hwf : MemoryCanonical s)
    (hlen : bytes.length + 1 ≤ voiceMemBytes) (h : Staged (stageByte params b s).finish bytes t) :
    Staged s (b :: bytes) t := by
  obtain ⟨hframe, hcursor, hstored, hkept⟩ := h
  have hscur : (stageByte params b s).finish.scur.toNat = (s.scur.toNat + 1) % voiceMemBytes :=
    stageByte_scur_toNat params b s
  rw [hscur] at hcursor
  simp only [hscur] at hstored hkept
  have hbound : s.scur.toNat < voiceMemBytes := s.scur.isLt
  refine ⟨hframe, ?cursor, fun i hi => ?stored, fun a ha => ?kept⟩
  case cursor =>
    rw [hcursor, nextAddress_add, List.length_cons]
  case stored =>
    cases i with
    | zero =>
      have hfirst : memoryByte t s.scur.toNat = memoryByte (stageByte params b s).finish s.scur.toNat :=
        hkept _ fun j hj => nextAddress_add _ j ▸ address_ne_of_later _ (by omega)
      rw [Nat.add_zero, hfirst, memoryByte_stageByte hwf, if_pos (Nat.mod_eq_of_lt hbound)]
      rfl
    | succ i =>
      have hnext : memoryByte t ((s.scur.toNat + 1) % voiceMemBytes + i) = bytes.getD i 0 :=
        hstored i (Nat.lt_of_succ_lt_succ hi)
      rw [List.getD_cons_succ, ← hnext]
      exact memoryByte_congr t (nextAddress_add _ i).symm
  case kept =>
    have hrest : memoryByte t a = memoryByte (stageByte params b s).finish a := by
      refine hkept a fun i hi => ?_
      rw [nextAddress_add]
      exact ha (i + 1) (Nat.succ_lt_succ hi)
    have hother : a % voiceMemBytes ≠ s.scur.toNat := by
      have hfirst := ha 0 (Nat.succ_pos _)
      rwa [Nat.add_zero, Nat.mod_eq_of_lt hbound] at hfirst
    rw [hrest, memoryByte_stageByte hwf, if_neg hother]

/-- A run of FIFO writes of no more bytes than memory has addresses. -/
theorem runsTo_fifo (bytes : List Byte) (s : State) (hwf : MemoryCanonical s) (hlen : bytes.length ≤ voiceMemBytes)
    (hrdata : s.rdata = none) : ∃ t, RunsTo s (bytes.map (asmWr 0x1DA8)) t ∧ Staged s bytes t := by
  induction bytes generalizing s with
  | nil =>
    refine ⟨_, runsTo_nil s, ?frame, (Nat.mod_eq_of_lt s.scur.isLt).symm, fun i hi => absurd hi (Nat.not_lt_zero i),
      fun a _ => rfl⟩
    rw [← hrdata]
    rfl
  | cons b bytes ih =>
    have hwf' : MemoryCanonical (stageByte params b s).finish := exec_keeps_memory _ _ _ (exec_wrFifo 0 b s) hwf
    obtain ⟨t, hruns, hstaged⟩ := ih (stageByte params b s).finish hwf' (Nat.le_of_succ_le hlen) rfl
    exact ⟨t, runsTo_asmWr (decodePort_fifo 0) (exec_wrFifo 0 b s) hruns, hstaged.cons hwf hlen⟩

/-- Settles O24: the bytes staged from the cursor that the two writes of the staging address leave. -/
theorem loadSequenceFillsMemory : Obligations.LoadSequenceFillsMemory := by
  intro u bytes s hwf hlen
  have hstart : (reloadCursor { s with stga := u }).finish.scur.toNat = 8 * u.toNat := by
    have hu := u.isLt
    rw [State.finish_scur, reloadCursor_scur_toNat]
    change 8 * u.toNat % 0x80000 = 8 * u.toNat
    omega
  obtain ⟨t, hruns, hframe, hcursor, hstored, hkept⟩ :=
    runsTo_fifo bytes (reloadCursor { s with stga := u }).finish hwf hlen rfl
  simp only [hstart] at hcursor hstored hkept
  exact ⟨t, runsTo_stga hruns, hframe, hcursor, hstored, hkept⟩

end Sys2Proof.Machine

/-! Runs of STEPs (R278): the write index counts frames modulo the buffer, and each voice is ticked over and over on the same
memory. -/

namespace Sys2Proof.Machine

open Sys2Proof.Config Sys2Proof.Claims Sys2Proof.Laws

/-- The state one STEP leaves. -/
def ticked (s : State) : State := (stepTick params s).finish

/-- The voice one tick leaves, on a given memory. -/
def tickedVoice (m : Memory) (x : Voice) : Voice := (voiceTick params m x).2

/-- A `steps` line runs that many STEPs, one after another. -/
theorem runsTo_steps (n : Nat) (s : State) : RunsTo s (assemble (.steps n)) ((ticked^[n] s).withPending []) := by
  induction n generalizing s with
  | zero => exact runsTo_nil s
  | succ n ih =>
    have hexec : exec (decodeWord asmStep) s = .next (ticked s) := by rw [decodeWord_asmStep, exec_step, ticked]
    exact runsTo_cons hexec (ih (ticked s))

/-! ## The write index -/

/-- One STEP moves the write index on by 2, modulo the buffer (R245, R246). -/
theorem ticked_wp {s : State} (hindex : WriteIndexInBuffer s) : (ticked s).wp = (s.wp + 2) % outCap := by
  obtain ⟨heven, hlt⟩ := hindex
  have hwhole := outCap_even
  have hwp : (ticked s).wp = if s.wp + 2 = outCap then 0 else s.wp + 2 := stepTick_wp params s
  rw [hwp]
  split
  · next hfull => rw [hfull, Nat.mod_self]
  · exact (Nat.mod_eq_of_lt (by omega)).symm

/-- n STEPs move the write index on by 2n, modulo the buffer (R278). -/
theorem iterate_ticked_wp (n : Nat) {s : State} (hindex : WriteIndexInBuffer s) :
    (ticked^[n] s).wp = (s.wp + 2 * n) % outCap := by
  induction n generalizing s with
  | zero => exact (Nat.mod_eq_of_lt hindex.2).symm
  | succ n ih =>
    have hnext : WriteIndexInBuffer (ticked s) := exec_keeps_writeIndex _ _ _ (exec_step s) hindex
    rw [Function.iterate_succ_apply, ih hnext, ticked_wp hindex, Nat.mod_add_mod, Nat.mul_succ, Nat.add_assoc,
      Nat.add_comm 2]

/-- Settles O39: the run of n STEPs, by its write index. -/
theorem stepsAdvanceWriteIndexModuloCapacity : Obligations.StepsAdvanceWriteIndexModuloCapacity := fun n s hindex =>
  ⟨_, runsTo_steps n s, iterate_ticked_wp n hindex⟩

/-! ## One voice over many STEPs -/

/-- STEPs change no byte of memory, so n of them tick a voice n times on the memory there was (R200, R201). -/
theorem iterate_ticked_voice (n : Nat) (s : State) (v : Fin voiceCount) :
    (ticked^[n] s).voice v = (tickedVoice s.mem)^[n] (s.voice v) := by
  induction n generalizing s with
  | zero => rfl
  | succ n ih =>
    have hmem : (ticked s).mem = s.mem := stepTick_mem params s
    have hvoice : (ticked s).voice v = tickedVoice s.mem (s.voice v) := stepTick_voice params s v
    rw [Function.iterate_succ_apply, Function.iterate_succ_apply, ih, hmem, hvoice]

/-- A run of n STEPs leaves of each voice what n ticks make of it. -/
theorem runsTo_steps_voice (n : Nat) (s : State) (v : Fin voiceCount) :
    ∃ t, RunsTo s (assemble (.steps n)) t ∧ t.voice v = (tickedVoice s.mem)^[n] (s.voice v) :=
  ⟨_, runsTo_steps n s, iterate_ticked_voice n s v⟩

/-- The tick of a playing voice is the move of the refilled voice (R203 to R210). -/
theorem tickedVoice_playing (m : Memory) {x : Voice} (hplay : x.playing = true) :
    tickedVoice m x = (x.refill params m).move params m := by
  rw [tickedVoice, voiceTick_playing params m x hplay]

/-! ## Rate 0 -/

/-- At rate 0 a move leaves the voice where it is (R214). -/
theorem Voice.move_of_rateZero (P : Params) (m : Memory) {x : Voice} (hrate : x.rate = 0) : x.move P m = x := by
  have hadvanced : x.advanced = x.subPos.toNat := by
    rw [Voice.advanced, hrate]
    rfl
  have hmoved : x.moved = x := by rw [Voice.moved, hadvanced, BitVec.ofNat_toNat, BitVec.setWidth_eq]
  rw [Voice.move_of_sameIndex P m x (by rw [hadvanced, Voice.index]), hmoved]

/-- At rate 0 a tick of a playing voice is its refill (R214). -/
theorem tickedVoice_of_rateZero (m : Memory) {x : Voice} (hplay : x.playing = true) (hrate : x.rate = 0) :
    tickedVoice m x = x.refill params m := by
  have hkept : (x.refill params m).rate = 0 := by rw [Voice.refill_fields, hrate]
  rw [tickedVoice_playing m hplay, Voice.move_of_rateZero params m hkept]

/-- Settles O33: the first tick fills the cache, and the voice it leaves is one that a tick does not change. -/
theorem rateZeroNeverMoves : Obligations.RateZeroNeverMoves := by
  intro s v hplay hrate n
  obtain ⟨t, hruns, hvoice⟩ := runsTo_steps_voice (n + 1) s v
  have hfirst : tickedVoice s.mem (s.voice v) = refilledVoice s v := by
    rw [tickedVoice_of_rateZero s.mem hplay hrate, Voice.refill_eq_refilledVoice]
  have hfixed : tickedVoice s.mem (refilledVoice s v) = refilledVoice s v := by
    rw [tickedVoice_of_rateZero s.mem (x := refilledVoice s v) hplay hrate, Voice.refill_valid _ _ _ rfl]
  refine ⟨t, hruns, ?_⟩
  rw [hvoice, Function.iterate_succ_apply, hfirst, Function.iterate_fixed hfixed]
  rfl

/-! ## Unity rate -/

/-- A voice that plays at unity rate and stands at the start of sample n of the block at `cur`. -/
structure AtSample (cur : Reg16) (n : Nat) (x : Voice) : Prop where
  playing : x.playing = true
  rate : rateUnity ≤ x.rate.toNat
  position : x.subPos.toNat = n * 4096
  block : x.cur = cur

/-- A refill leaves the voice where it stands. -/
theorem AtSample.refill {cur : Reg16} {n : Nat} {x : Voice} (h : AtSample cur n x) (P : Params) (m : Memory) :
    AtSample cur n (x.refill P m) := by
  obtain ⟨hplay, hrate, hposition, hblock⟩ := h
  rw [Voice.refill_fields]
  exact ⟨hplay, hrate, hposition, hblock⟩

/-- At unity rate the position advances by one sample (R205). -/
theorem AtSample.advanced {cur : Reg16} {n : Nat} {x : Voice} (h : AtSample cur n x) :
    x.advanced = (n + 1) * 4096 := by
  rw [Voice.advanced, h.position, Nat.min_eq_left h.rate, Nat.succ_mul]

/-- So every tick comes to a new sample. -/
theorem AtSample.newSample {cur : Reg16} {n : Nat} {x : Voice} (h : AtSample cur n x) :
    x.advanced / 4096 ≠ x.index := by
  rw [h.advanced, Voice.index, h.position]
  omega

/-- Inside the block a tick goes on to the next sample, where the block carries no loop end (R208 to R210). -/
theorem AtSample.ticked {cur : Reg16} {n : Nat} {x : Voice} (h : AtSample cur n x) (m : Memory) (hn : n + 1 < 28)
    (hend : loopEnd (flagByte params m cur) = false) : AtSample cur (n + 1) (tickedVoice m x) := by
  have hrefilled := h.refill params m
  rw [tickedVoice_playing m h.playing]
  generalize x.refill params m = y at hrefilled
  have hadvanced := hrefilled.advanced
  have hin : y.advanced < subPosLimit := by rw [hadvanced, subPosLimit]; omega
  have hnew := hrefilled.newSample
  obtain ⟨hplay, hrate, -, hblock⟩ := hrefilled
  rw [Voice.move_of_newSample params m y hnew hin, Voice.applyFlags, hblock, hend]
  refine ⟨hplay, hrate, ?_, hblock⟩
  change (BitVec.ofNat 17 y.advanced).toNat = (n + 1) * 4096
  rw [hadvanced, BitVec.toNat_ofNat]
  omega

/-- From the last sample a tick crosses into the next block (R207). -/
theorem AtSample.ticked_last {cur : Reg16} {x : Voice} (h : AtSample cur 27 x) (m : Memory) :
    (tickedVoice m x).playing = true ∧ (tickedVoice m x).subPos = 0 ∧
      (tickedVoice m x).cur.toNat = (cur.toNat + 2) % 2 ^ 16 ∧ (tickedVoice m x).cacheValid = false := by
  have hrefilled := h.refill params m
  rw [tickedVoice_playing m h.playing]
  generalize x.refill params m = y at hrefilled
  have hadvanced := hrefilled.advanced
  rw [Voice.move_of_crossing params m y hrefilled.newSample (by rw [hadvanced])]
  refine ⟨hrefilled.playing, ?position, ?block, rfl⟩
  case position =>
    rw [Voice.cross_subPos, hadvanced]
    rfl
  case block => rw [Voice.cross_cur, hrefilled.block, add_blockStride, BitVec.toNat_ofNat]

/-- n ticks from the start of a block come to its sample n. -/
theorem AtSample.iterate {cur : Reg16} {x : Voice} (h : AtSample cur 0 x) (m : Memory)
    (hend : loopEnd (flagByte params m cur) = false) (n : Nat) (hn : n < 28) :
    AtSample cur n ((tickedVoice m)^[n] x) := by
  induction n with
  | zero => exact h
  | succ n ih =>
    rw [Function.iterate_succ_apply']
    exact (ih (by omega)).ticked m hn hend

/-- Settles O32: sample by sample to the last one, and from there across the boundary. -/
theorem unityRateConsumesABlockInTwentyEightTicks : Obligations.UnityRateConsumesABlockInTwentyEightTicks := by
  intro s v hplay hrate hposition hend n hn
  have hstart : AtSample (s.voice v).cur 0 (s.voice v) := ⟨hplay, hrate, by rw [hposition]; rfl, rfl⟩
  obtain ⟨t, hruns, hvoice⟩ := runsTo_steps_voice n s v
  refine ⟨t, hruns, ?_⟩
  split
  · next hinside =>
    obtain ⟨hplaying, -, hsample, hblock⟩ := hvoice ▸ hstart.iterate s.mem hend n hinside
    exact ⟨hplaying, hsample, hblock⟩
  · next hlast =>
    obtain rfl : n = 28 := by omega
    rw [Function.iterate_succ_apply'] at hvoice
    rw [hvoice]
    exact (hstart.iterate s.mem hend 27 (by decide)).ticked_last s.mem

end Sys2Proof.Machine
